-- ==== Sys2Proof/Word.lean ====
section
/-! DEFINITION. The words of the block: bytes, byte sequences and 16-bit values
(spec/00_scope.md R12, R13). All arithmetic is unsigned. -/

namespace Sys2Proof

/-- An unsigned 8-bit value, bit 0 the least significant (R12). -/
abbrev Byte := BitVec 8

/-- A finite sequence of bytes, counted from offset 0 (R13). -/
abbrev Bytes := List Byte

/-- An unsigned 16-bit value (R12). -/
abbrev U16 := BitVec 16

end Sys2Proof
end

