-- ==== Sys2Proof/Config.lean ====
section
/-! DEFINITION. The parameters of the block (spec/00_scope.md R7, R9, R10) and the two free values
the spec leaves to the environment: the first content of a granted buffer and the details of an
event. A free value has no body: nothing can be proved of it. -/

namespace Sys2Proof.Config

/-- FLAG, the frame delimiter. DESIGN CHOICE of the spec (R9, D5; log entry 2): unsafe. -/
def flag : Byte := 0x7E

/-- CTRL_UI, the control byte of a built frame. DESIGN CHOICE of the spec (R9, D6; log entry 2): unsafe. -/
def ctrlUi : Byte := 0x03

/-- PID_NO_L3, the protocol id of a built frame. DESIGN CHOICE of the spec (R9, D7; log entry 2): unsafe. -/
def pidNoL3 : Byte := 0xF0

/-- CALL_LEN, the callsign bytes of an address field (R7). -/
def callLen : Nat := 6

/-- ADDR_LEN, the bytes of an address field (R7). -/
def addrLen : Nat := 7

/-- FRAME_OVERHEAD: a frame is this much longer than its information field (R7). -/
def frameOverhead : Nat := 20

/-- MIN_FRAME_LEN, the shortest frame PARSE measures as a frame (R7). -/
def minFrameLen : Nat := 20

/-- SSID_RESERVED, bits 6 and 5 of the SSID byte (R7). -/
def ssidReserved : Byte := 0x60

/-- CRC_INIT (R7). -/
def crcInit : U16 := 0xFFFF

/-- CRC_XOROUT (R7). -/
def crcXorOut : U16 := 0xFFFF

/-- CRC_POLY_REFL, the reflected polynomial (R8; spec/90_conflicts.md C1). -/
def crcPolyRefl : U16 := 0x8408

/-- MAX_BLOB = 2^32 - 1 (R10, D14). -/
def maxBlob : Nat := 4294967295

/-- MAX_INFO_LEN = 2^32 - 21 (R10, D14). -/
def maxInfoLen : Nat := 4294967275

/-- DEFAULT_STATION_CONFIG: the source callsign "N0CALL". DESIGN CHOICE of the spec (R9, D9; log entry 3): unsafe. -/
def defaultSrcCall : Bytes := [0x4E, 0x30, 0x43, 0x41, 0x4C, 0x4C]

/-- DEFAULT_STATION_CONFIG: the source id 0. DESIGN CHOICE of the spec (R9, D9; log entry 3): unsafe. -/
def defaultSrcId : BitVec 4 := 0

/-- DEFAULT_STATION_CONFIG: the destination callsign "CQ". DESIGN CHOICE of the spec (R9, D9; log entry 3): unsafe. -/
def defaultDstCall : Bytes := [0x43, 0x51]

/-- DEFAULT_STATION_CONFIG: the destination id 0. DESIGN CHOICE of the spec (R9, D9; log entry 3): unsafe. -/
def defaultDstId : BitVec 4 := 0

/-- VERIFY_RESET = 1 (R10, D10; log entry 3). -/
def verifyReset : Bool := true

/-- STRICT_RESET = 0. DESIGN CHOICE of the spec (R10, D10; log entry 3): unsafe. -/
def strictReset : Bool := false

/-- FREE VALUE. The byte at an offset of a buffer the allocator granted, before the block writes it
(R221: "The initial content of buf is any bytes"), for the draw of that number (log entry 6): safe. -/
opaque bufferByte : Nat → Nat → BitVec 8

/-- FREE VALUE. The details of a notify event (R224: "`details` is any value"), for the draw of that
number (log entry 7): safe. -/
opaque eventDetails : Nat → List (BitVec 8)

end Sys2Proof.Config
end

