-- ==== Sys2Proof/Syntax.lean ====
section
/-! DEFINITION. The command terms of spec/30_encoding.md R72, one constructor per row of
spec/opcode_table.json. -/

namespace Sys2Proof

/-- A decoded command (R72), with its operands in descriptor order (R71). -/
inductive Instr where
  /-- CRC16: checksum of a byte sequence (spec/41_checksum.md R103). -/
  | crc16 (data : Bytes)
  /-- ADDRENC: encode one address field (spec/42_address.md R123). -/
  | addrenc (call : Bytes) (id : Byte) (final : Bool)
  /-- ADDRDEC: decode one address field of exactly 7 bytes (spec/42_address.md R125). -/
  | addrdec (field : Bytes)
  /-- BUILD: build a frame from explicit addressing (spec/43_frame_build.md R144). -/
  | build (dcall : Bytes) (did : Byte) (scall : Bytes) (sid : Byte) (info : Bytes)
  /-- BUILDCFG: build a frame from the StationConfig addressing (spec/43_frame_build.md R145). -/
  | buildcfg (info : Bytes)
  /-- PARSE: validate and decode a frame; `none` is present = false (spec/44_frame_parse.md R160). -/
  | parse (frame : Option Bytes)
  /-- SETSRC: set the source address (spec/45_config.md R181). -/
  | setsrc (call : Bytes) (id : Byte)
  /-- SETDST: set the destination address (spec/45_config.md R183). -/
  | setdst (call : Bytes) (id : Byte)
  /-- SETOPT: set the parser options (spec/45_config.md R184). -/
  | setopt (verify : Bool) (strict : Bool)
  deriving DecidableEq, Repr

end Sys2Proof
end

