-- ==== Sys2Proof/WellFormed.lean ====
section
/-! DEFINITION. Which command terms a descriptor can express (spec/30_encoding.md R67, R68, R71). -/

namespace Sys2Proof

/-- A blob operand is at most MAX_BLOB bytes long (R68). -/
def blobFits (v : Bytes) : Bool := decide (v.length ≤ Config.maxBlob)

/-- The `info` operand of BUILD and BUILDCFG is at most MAX_INFO_LEN bytes long (R68). -/
def infoFits (v : Bytes) : Bool := decide (v.length ≤ Config.maxInfoLen)

/-- An addr7 operand is exactly 7 bytes (R67). -/
def addr7Fits (v : Bytes) : Bool := decide (v.length = Config.addrLen)

/-- The command has a descriptor: every operand is a value of its type in R71's signature. -/
def Instr.wf : Instr → Bool
  | .crc16 data => blobFits data
  | .addrenc call _ _ => blobFits call
  | .addrdec field => addr7Fits field
  | .build dcall _ scall _ info => blobFits dcall && blobFits scall && infoFits info
  | .buildcfg info => infoFits info
  | .parse none => true
  | .parse (some frame) => blobFits frame
  | .setsrc call _ => blobFits call
  | .setdst call _ => blobFits call
  | .setopt _ _ => true

end Sys2Proof
end

