-- ==== Sys2Proof/Decode.lean ====
section
/-! DEFINITION. The decoder of command descriptors (spec/30_encoding.md R66 to R74, R78), total on any
byte sequence, and after it the encoder written from the same tables. -/

namespace Sys2Proof

/-- Why a byte sequence is no descriptor (R73, R74). Every one of them is answered with the status
IllegalCommand; the names only say which clause refused it. -/
inductive Malformed where
  /-- the descriptor is empty -/
  | empty
  /-- opcode 0x00 or 0x0A to 0xFF (R73) -/
  | reservedOpcode
  /-- it ends inside an operand -/
  | endsInside
  /-- it has bytes after the last operand -/
  | trailingBytes
  /-- a bool operand is neither 0x00 nor 0x01 -/
  | notBool
  /-- an opts operand has a nonzero bit in 7:2 -/
  | reservedOptsBit
  /-- an `info` operand is longer than MAX_INFO_LEN -/
  | infoTooLong
  deriving DecidableEq, Repr

/-- The value of a 32-bit little-endian length prefix (R67, R44). -/
def le32Value (b0 b1 b2 b3 : Byte) : Nat :=
  b0.toNat + 0x100 * b1.toNat + 0x10000 * b2.toNat + 0x1000000 * b3.toNat

/-- Operand type u8 (R67). -/
def readU8 : Bytes → Except Malformed (Byte × Bytes)
  | [] => .error .endsInside
  | b :: rest => .ok (b, rest)

/-- Operand type bool: 0x00 or 0x01 (R67). -/
def readBool : Bytes → Except Malformed (Bool × Bytes)
  | [] => .error .endsInside
  | b :: rest =>
    if b = 0x00 then .ok (false, rest)
    else if b = 0x01 then .ok (true, rest)
    else .error .notBool

/-- Operand type blob: a length prefix, then that many bytes (R67). -/
def readBlob : Bytes → Except Malformed (Bytes × Bytes)
  | b0 :: b1 :: b2 :: b3 :: rest =>
    if le32Value b0 b1 b2 b3 ≤ rest.length then
      .ok (rest.take (le32Value b0 b1 b2 b3), rest.drop (le32Value b0 b1 b2 b3))
    else .error .endsInside
  | _ => .error .endsInside

/-- The `info` operand of BUILD and BUILDCFG: a blob of at most MAX_INFO_LEN bytes (R68, R72). -/
def readInfo (d : Bytes) : Except Malformed (Bytes × Bytes) :=
  match readBlob d with
  | .error e => .error e
  | .ok (info, rest) => if infoFits info then .ok (info, rest) else .error .infoTooLong

/-- Operand type addr7: exactly 7 bytes (R67). -/
def readAddr7 (d : Bytes) : Except Malformed (Bytes × Bytes) :=
  if Config.addrLen ≤ d.length then .ok (d.take Config.addrLen, d.drop Config.addrLen)
  else .error .endsInside

/-- Operand type opts: bit 0 VERIFY, bit 1 STRICT, bits 7:2 zero (R67). -/
def readOpts : Bytes → Except Malformed ((Bool × Bool) × Bytes)
  | [] => .error .endsInside
  | b :: rest =>
    if b &&& 0xFC = 0 then .ok ((b.getLsbD 0, b.getLsbD 1), rest) else .error .reservedOptsBit

/-- The operands of an opcode in the order of its signature (R71, R72), and the bytes after them. -/
def readOperands (op : Byte) (d : Bytes) : Except Malformed (Instr × Bytes) :=
  match op.toNat with
  | 0x01 => do
    let (data, d) ← readBlob d
    return (.crc16 data, d)
  | 0x02 => do
    let (call, d) ← readBlob d
    let (id, d) ← readU8 d
    let (final, d) ← readBool d
    return (.addrenc call id final, d)
  | 0x03 => do
    let (field, d) ← readAddr7 d
    return (.addrdec field, d)
  | 0x04 => do
    let (dcall, d) ← readBlob d
    let (did, d) ← readU8 d
    let (scall, d) ← readBlob d
    let (sid, d) ← readU8 d
    let (info, d) ← readInfo d
    return (.build dcall did scall sid info, d)
  | 0x05 => do
    let (info, d) ← readInfo d
    return (.buildcfg info, d)
  | 0x06 => do
    let (present, d) ← readBool d
    if present then
      let (frame, d) ← readBlob d
      return (.parse (some frame), d)
    else
      return (.parse none, d)
  | 0x07 => do
    let (call, d) ← readBlob d
    let (id, d) ← readU8 d
    return (.setsrc call id, d)
  | 0x08 => do
    let (call, d) ← readBlob d
    let (id, d) ← readU8 d
    return (.setdst call id, d)
  | 0x09 => do
    let (o, d) ← readOpts d
    return (.setopt o.1 o.2, d)
  | _ => .error .reservedOpcode

/-- The command a byte sequence begins with, and the bytes after it. -/
def decodePrefix : Bytes → Except Malformed (Instr × Bytes)
  | [] => .error .empty
  | op :: d => readOperands op d

/-- R72: the command a descriptor stands for, or why it is refused. The descriptor ends exactly where
the signature ends (R66). -/
def decode (d : Bytes) : Except Malformed Instr :=
  match decodePrefix d with
  | .error e => .error e
  | .ok (i, []) => .ok i
  | .ok (_, _ :: _) => .error .trailingBytes

/-! ## The encoder -/

/-- A 32-bit length as four bytes, least significant first (R67, R44). -/
def le32Bytes (n : Nat) : Bytes :=
  [BitVec.ofNat 8 n, BitVec.ofNat 8 (n / 0x100), BitVec.ofNat 8 (n / 0x10000),
    BitVec.ofNat 8 (n / 0x1000000)]

/-- A blob: its length, then its bytes (R67). -/
def blobBytes (v : Bytes) : Bytes := le32Bytes v.length ++ v

/-- A bool: 0x00 or 0x01 (R67). -/
def boolByte (b : Bool) : Byte := if b then 0x01 else 0x00

/-- An opts byte: `(s << 1) | v` (R79). -/
def optsByte (verify strict : Bool) : Byte := (boolByte strict <<< 1) ||| boolByte verify

/-- The opcode map (R70). -/
def Instr.opcode : Instr → Byte
  | .crc16 _ => 0x01
  | .addrenc _ _ _ => 0x02
  | .addrdec _ => 0x03
  | .build _ _ _ _ _ => 0x04
  | .buildcfg _ => 0x05
  | .parse _ => 0x06
  | .setsrc _ _ => 0x07
  | .setdst _ _ => 0x08
  | .setopt _ _ => 0x09

/-- The operands as bytes, in the order of the signature (R71). -/
def Instr.operandBytes : Instr → Bytes
  | .crc16 data => blobBytes data
  | .addrenc call id final => blobBytes call ++ [id, boolByte final]
  | .addrdec field => field
  | .build dcall did scall sid info =>
    blobBytes dcall ++ [did] ++ blobBytes scall ++ [sid] ++ blobBytes info
  | .buildcfg info => blobBytes info
  | .parse none => [boolByte false]
  | .parse (some frame) => boolByte true :: blobBytes frame
  | .setsrc call id => blobBytes call ++ [id]
  | .setdst call id => blobBytes call ++ [id]
  | .setopt verify strict => [optsByte verify strict]

/-- The descriptor of a command (R66). -/
def encode (i : Instr) : Bytes := i.opcode :: i.operandBytes

/-- The descriptor length R71's table gives the command. -/
def Instr.descriptorLength : Instr → Nat
  | .crc16 data => 5 + data.length
  | .addrenc call _ _ => 7 + call.length
  | .addrdec _ => 8
  | .build dcall _ scall _ info => 15 + dcall.length + scall.length + info.length
  | .buildcfg info => 5 + info.length
  | .parse none => 2
  | .parse (some frame) => 6 + frame.length
  | .setsrc call _ => 6 + call.length
  | .setdst call _ => 6 + call.length
  | .setopt _ _ => 2

/-! ## Words of the opcode table -/

/-- The bytes of a word of `nbits` bits, the first byte its least significant one. -/
def wordBytes (nbits w : Nat) : Bytes :=
  (List.range ((nbits + 7) / 8)).map fun k => BitVec.ofNat 8 (w >>> (8 * k))

/-- Where the blob at offset `p` ends, the sequence read as if zeros followed it without end. -/
def blobEnd (d : Bytes) (p : Nat) : Nat :=
  p + 4 + le32Value (d.getD p 0) (d.getD (p + 1) 0) (d.getD (p + 2) 0) (d.getD (p + 3) 0)

/-- The length R71 gives the command that begins the sequence, read as if zeros followed it without
end (R78: the length is known once the operands are read). -/
def lengthOverZeros (d : Bytes) : Nat :=
  match (d.getD 0 0).toNat with
  | 0x01 => blobEnd d 1
  | 0x02 => blobEnd d 1 + 2
  | 0x03 => 8
  | 0x04 => blobEnd d (blobEnd d (blobEnd d 1 + 1) + 1)
  | 0x05 => blobEnd d 1
  | 0x06 => if d.getD 1 0 = 0x01 then blobEnd d 2 else 2
  | 0x07 => blobEnd d 1 + 1
  | 0x08 => blobEnd d 1 + 1
  | 0x09 => 2
  | _ => 1

/-- The descriptor of an opcode-table word: its bytes, then as many zeros as its signature still
needs (log entry 14). -/
def tableDescriptor (nbits w : Nat) : Bytes :=
  wordBytes nbits w ++
    List.replicate (lengthOverZeros (wordBytes nbits w) - (wordBytes nbits w).length) 0

/-- The command the decoder reads from an opcode-table word, every bit above `nbits` zero. -/
def decodeTableWord (nbits w : Nat) : Option Instr := (decode (tableDescriptor nbits w)).toOption

end Sys2Proof
end

