-- ==== Sys2Proof/Machine/Flags.lean ====
section
/-! DEFINITION. The status codes. The block has no flags and no condition codes that persist
(spec/10_state.md R27): a command's only flag is the status byte of its own response
(spec/30_encoding.md R76). -/

namespace Sys2Proof.Machine

/-- The outcome of a command (R76, spec/60_exceptions.md R201). -/
inductive Status where
  | ok
  | allocationFailure
  | invalidInput
  | frameTooShort
  | invalidFraming
  | checksumMismatch
  | unexpectedControlOrPid
  | illegalCommand
  deriving DecidableEq, Repr

/-- The status byte (R76). -/
def Status.code : Status → Byte
  | .ok => 0x00
  | .allocationFailure => 0x01
  | .invalidInput => 0x02
  | .frameTooShort => 0x03
  | .invalidFraming => 0x04
  | .checksumMismatch => 0x05
  | .unexpectedControlOrPid => 0x06
  | .illegalCommand => 0x07

end Sys2Proof.Machine
end

