-- ==== Sys2Proof/Machine/State.lean ====
section
/-! DEFINITION. The state of the block (spec/10_state.md R23, R32) with the inputs waiting at its ports
and the outputs that have left them (spec/60_exceptions.md R220), as plain data; the reasons a step
can stop; the state after reset. -/

namespace Sys2Proof.Machine

/-- Why the machine stops. -/
inductive Fault where
  /-- Raised by `runPort` in a state whose fault mark is set, on anything but a reset: a caller broke
  its contract, a faulted state is never final and the block takes no further commands (R30, R211).
  Safe: the model stops where the spec gives no behaviour. -/
  | contractViolation
  /-- Raised by BUILD and BUILDCFG when the allocator port holds no answer: a host that never answers
  leaves the block stuck in that command (R239). Safe: the model stops. -/
  | allocatorSilent
  deriving DecidableEq, Repr

/-- Why an instruction has no meaning. -/
inductive Refusal where
  /-- Raised by an arm of `exec` whose instruction has no meaning yet; no arm is one. Safe. -/
  | notModelled (mnemonic : String)
  deriving DecidableEq, Repr

/-- The StationConfig registers (R24). -/
structure StationConfig where
  /-- `cfg.src_call`, 0 to 6 bytes -/
  srcCall : Bytes
  /-- `cfg.src_id`, 4 bits -/
  srcId : BitVec 4
  /-- `cfg.dst_call`, 0 to 6 bytes -/
  dstCall : Bytes
  /-- `cfg.dst_id`, 4 bits -/
  dstId : BitVec 4
  deriving DecidableEq, Repr

/-- The kinds of notify events (R224). -/
inductive EventKind where
  | frameBuilt
  | frameReceived
  | allocationFailed
  /-- emitted by the adapter, never by the block -/
  | transmissionFailed
  deriving DecidableEq, Repr

/-- What leaves the block at its ports (R220). -/
inductive Output where
  /-- allocator port: a request for so many bytes (R221) -/
  | request (size : Nat)
  /-- notify port: an event (R224) -/
  | event (kind : EventKind) (details : Bytes)
  /-- command port: a response (R75) -/
  | response (bytes : Bytes)
  deriving DecidableEq, Repr

/-- What the allocator answers to one request (R221). A granted buffer has exactly the requested
length: the spec makes any other grant no move of the model (D20). -/
inductive AllocAnswer where
  | granted
  | failed
  deriving DecidableEq, Repr

/-- The host's draw for one command that it may fail to serialize against setters (R52): how many of
the inputs behind the command overlap it, and for each StationConfig register which value a BUILDCFG
reads. Reading 0 is the value before, reading k the value the k-th overlapping write gives
(log entry 9). -/
structure Race where
  overlap : Nat
  srcCall : Nat
  srcId : Nat
  dstCall : Nat
  dstId : Nat
  deriving DecidableEq, Repr

/-- The serialized command: nothing overlaps it (R51). -/
def Race.serialized : Race := { overlap := 0, srcCall := 0, srcId := 0, dstCall := 0, dstId := 0 }

/-- What the host gives the command port (R20, R211, R230). -/
inductive HostInput where
  /-- one descriptor, any byte sequence (R66, R220) -/
  | command (descriptor : Bytes) (race : Race)
  /-- a call with an absent operand other than PARSE's: a caller contract violation that no
  descriptor can express (R67, R211) -/
  | absentOperand
  /-- the reset input (R230) -/
  | reset
  deriving DecidableEq, Repr

/-- The whole state. -/
structure State where
  /-- the StationConfig registers (R24) -/
  cfg : StationConfig
  /-- the option register: bit 0 VERIFY, bit 1 STRICT, bits 7:2 hardwired 0 (R25) -/
  opt : Byte
  /-- the model fault mark (R30) -/
  fault : Bool
  /-- the inputs waiting at the command port, oldest first; the command being run stays at the head
  until it is done (log entry 4) -/
  port : List HostInput
  /-- the answers the allocator gives to the next requests, oldest first (log entry 5) -/
  allocator : List AllocAnswer
  /-- what has left the ports since reset, oldest first (log entry 8); the notify history of R31 is
  its events -/
  outputs : List Output
  /-- how many free values have been drawn: the model's own counter (log entries 6 and 7) -/
  draws : Nat
  deriving DecidableEq, Repr

/-- The notify event history (R31). -/
def State.events (s : State) : List (EventKind × Bytes) :=
  s.outputs.filterMap fun
    | .event k d => some (k, d)
    | _ => none

/-- The responses given so far (R75). -/
def State.responses (s : State) : List Bytes :=
  s.outputs.filterMap fun
    | .response r => some r
    | _ => none

/-- The sizes asked of the allocator so far (R146). -/
def State.requests (s : State) : List Nat :=
  s.outputs.filterMap fun
    | .request n => some n
    | _ => none

/-- The registers after reset (R32; log entry 3). -/
def StationConfig.reset : StationConfig :=
  { srcCall := Config.defaultSrcCall, srcId := Config.defaultSrcId,
    dstCall := Config.defaultDstCall, dstId := Config.defaultDstId }

/-- The option register after reset: VERIFY_RESET and STRICT_RESET in bits 0 and 1 (R25, R32). -/
def optReset : Byte :=
  (if Config.verifyReset then 0x01 else 0x00) ||| (if Config.strictReset then 0x02 else 0x00)

/-- The machine right after reset (R32): nothing waits at its ports and nothing has left them
(log entry 16). -/
def State.reset : State :=
  { cfg := StationConfig.reset, opt := optReset, fault := false,
    port := [], allocator := [], outputs := [], draws := 0 }

end Sys2Proof.Machine
end

