-- ==== Sys2Proof/Machine/Ops.lean ====
section
/-! DEFINITION. The named operations every meaning is written over: slices and buffer writes
(spec/00_scope.md R13, R14), the three output ports (R14; spec/60_exceptions.md R220), the one way a
command ends in an error, and what the command port does with its next input. The block has no traps
(R200, R213): an error is the end of one command, and `State.raise` is that one operation. -/

namespace Sys2Proof.Machine

/-- The half-open slice `s[a:b)` (R13). -/
def slice (s : Bytes) (a b : Nat) : Bytes := (s.drop a).take (b - a)

/-- `MemWrite(buf, k, n, v)` with n the length of v (R14, spec/20_memory.md R41). -/
def memWrite (buf : Bytes) (k : Nat) (v : Bytes) : Bytes :=
  buf.take k ++ v ++ buf.drop (k + v.length)

/-- Low-order byte of a 16-bit value (R12). -/
def lowByte (v : U16) : Byte := v.setWidth 8

/-- High-order byte of a 16-bit value (R12). -/
def highByte (v : U16) : Byte := (v >>> 8).setWidth 8

/-- A 16-bit value from its low and its high byte (spec/44_frame_parse.md R164). -/
def u16OfBytes (lo hi : Byte) : U16 := lo.setWidth 16 ||| (hi.setWidth 16 <<< 8)

/-- One more output leaves the block. -/
def State.emit (s : State) (o : Output) : State := { s with outputs := s.outputs ++ [o] }

/-- `return OK(fields)`: status OK, then the result fields (R14, R75). -/
def State.answerOk (s : State) (fields : Bytes) : State :=
  s.emit (.response (Status.ok.code :: fields))

/-- `raise <Status>`: the response is that status byte and nothing else, and no register is written
(R14, R75, R209). -/
def State.raise (s : State) (st : Status) : State := s.emit (.response [st.code])

/-- The code of an event kind (R224). -/
def EventKind.code : EventKind → Byte
  | .frameBuilt => 0x01
  | .frameReceived => 0x02
  | .allocationFailed => 0x03
  | .transmissionFailed => 0x04

/-- `Notify(kind)`: an event with details nobody knows (R14, R224). -/
def State.notify (s : State) (k : EventKind) : State :=
  { s.emit (.event k (Config.eventDetails s.draws)) with draws := s.draws + 1 }

/-- A buffer of the requested size as the allocator hands it over: any bytes (R221). -/
def freshBuffer (draw size : Nat) : Bytes := (List.range size).map (Config.bufferByte draw)

/-- What a request to the allocator port comes back with. -/
inductive AllocResult where
  /-- no answer is there: the block is stuck in the command (R239) -/
  | silent
  | failed (s : State)
  | granted (buf : Bytes) (s : State)
  deriving DecidableEq, Repr

/-- `Alloc(n)`: one request for n bytes, answered by the environment's next answer (R14, R221). -/
def State.alloc (s : State) (size : Nat) : AllocResult :=
  match s.allocator with
  | [] => .silent
  | .failed :: rest => .failed { s.emit (.request size) with allocator := rest }
  | .granted :: rest =>
    .granted (freshBuffer s.draws size)
      { s.emit (.request size) with allocator := rest, draws := s.draws + 1 }

/-- The input at the head of the command port has been dealt with. -/
def State.popPort (s : State) : State := { s with port := s.port.tail }

/-- Reset taken between commands: every state at its reset value, the notify history with it, and no
response (R230). The host's waiting inputs and answers stay the host's, and the counter of free
values runs on (log entry 11). -/
def State.takeReset (s : State) : State :=
  { State.reset with port := s.port, allocator := s.allocator, draws := s.draws }

/-- A caller broke its contract: the fault mark is set, and no response is invented (R30, R211). -/
def State.markFault (s : State) : State := { s with fault := true }

/-- Run a decoded command, then take it from the port: the port performs commands one at a time, in
the order it receives them (R51). -/
def runCommand (run : Instr → State → Host.Outcome State Fault Refusal) (i : Instr) (s : State) :
    Host.Outcome State Fault Refusal :=
  match run i s with
  | .next t => .next t.popPort
  | .fault f => .fault f
  | .refused r => .refused r

/-- What the block does with the next input of its command port (R20, R22, R51). A reset is always
taken (R230). A faulted block takes nothing else (R30). With nothing waiting the block is idle and
keeps its state (R217). A malformed descriptor is refused with IllegalCommand (R73, R74, R208). -/
def runPort (run : Instr → State → Host.Outcome State Fault Refusal) (s : State) :
    Host.Outcome State Fault Refusal :=
  match s.port with
  | [] => if s.fault then .fault .contractViolation else .next s
  | .reset :: _ => .next s.takeReset.popPort
  | .absentOperand :: _ =>
    if s.fault then .fault .contractViolation else .next s.markFault.popPort
  | .command d _ :: _ =>
    if s.fault then .fault .contractViolation
    else
      match decode d with
      | .error _ => .next (s.raise .illegalCommand).popPort
      | .ok i => runCommand run i s

/-- A descriptor placed at the head of the command port, and the allocator made to grant if it has no
answer waiting: all that the very next step needs to run it (log entries 4 and 5). -/
def State.deliver (s : State) (d : Bytes) : State :=
  { s with
    port := .command d Race.serialized :: s.port
    allocator := if s.allocator = [] then [.granted] else s.allocator }

end Sys2Proof.Machine
end

