-- ==== Sys2Proof/Machine/Operands.lean ====
section
/-! DEFINITION. The forms in which a command's operands and results are held: result fields
(spec/30_encoding.md R77, in the types of R67), the form a setter stores (spec/45_config.md R182), and
the addressing BUILDCFG reads from the StationConfig registers, torn or not (spec/20_memory.md R52,
spec/43_frame_build.md R145). -/

namespace Sys2Proof.Machine

/-- A u16 result, low byte first (R77, R44). -/
def u16Field (v : U16) : Bytes := [lowByte v, highByte v]

/-- A 4-bit id as the u8 it is carried in. -/
def idByte (id : BitVec 4) : Byte := id.setWidth 8

/-- An id operand masked to 4 bits: `id & 0xF` (R182). -/
def maskId (id : Byte) : BitVec 4 := id.setWidth 4

/-- A callsign operand truncated as a setter stores it: its first min(len, 6) bytes (R181, R182). -/
def storedCall (call : Bytes) : Bytes := call.take (min call.length Config.callLen)

/-- The commands among some port inputs, up to the first reset or absent operand. Reset is taken only
between commands (R230), and behind an absent operand no command is performed (R30). DESIGN CHOICE, safe
(log entry 9): a setter counts as overlapping only when it stands before either. -/
def commandsBeforeStop : List HostInput → List Instr
  | [] => []
  | .reset :: _ => []
  | .absentOperand :: _ => []
  | .command d _ :: rest =>
    match decode d with
    | .ok i => i :: commandsBeforeStop rest
    | .error _ => commandsBeforeStop rest

/-- The draw that stands with the command at the head of the port. -/
def State.race (s : State) : Race :=
  match s.port with
  | .command _ race :: _ => race
  | _ => Race.serialized

/-- The commands the host lets overlap the command at the head of the port (R52). -/
def State.overlapping (s : State) : List Instr :=
  commandsBeforeStop (s.port.tail.take s.race.overlap)

/-- What an overlapping SETSRC writes. -/
def srcWrite : Instr → Option (Bytes × BitVec 4)
  | .setsrc call id => some (storedCall call, maskId id)
  | _ => none

/-- What an overlapping SETDST writes. -/
def dstWrite : Instr → Option (Bytes × BitVec 4)
  | .setdst call id => some (storedCall call, maskId id)
  | _ => none

/-- One read of a register whose overlapping writes are `writes`: the value before them, or the value
of one of them (R52). -/
def tornRead {α : Type} (before : α) (writes : List α) (pick : Nat) : α :=
  (before :: writes).getD pick before

/-- The addressing one BUILDCFG reads: the registers as they are when the port is serialized, and per
register any value R52 admits when setters overlap. -/
def State.snapshot (s : State) : StationConfig :=
  { srcCall := tornRead s.cfg.srcCall ((s.overlapping.filterMap srcWrite).map Prod.fst) s.race.srcCall
    srcId := tornRead s.cfg.srcId ((s.overlapping.filterMap srcWrite).map Prod.snd) s.race.srcId
    dstCall := tornRead s.cfg.dstCall ((s.overlapping.filterMap dstWrite).map Prod.fst) s.race.dstCall
    dstId := tornRead s.cfg.dstId ((s.overlapping.filterMap dstWrite).map Prod.snd) s.race.dstId }

end Sys2Proof.Machine
end

