-- ==== Sys2Proof/Machine/Address.lean ====
section
/-! DEFINITION. AddressCodec (spec/42_address.md): packing a callsign and an id into 7 bytes and back,
and the meanings of ADDRENC and ADDRDEC. -/

namespace Sys2Proof.Machine

/-- The space a short callsign is padded with, and the only byte trimmed on decode (R120, R124). -/
def space : Byte := 0x20

/-- `callsign6(c)`: exactly 6 bytes, padded with spaces, the rest ignored (R120). -/
def callsign6 (c : Bytes) : Bytes := (List.range Config.callLen).map fun k => c.getD k space

/-- The SSID byte (R63): the id in bits 4:1, the reserved marker in 6:5, the extension bit in 0. -/
def ssidByte (id : Byte) (final : Bool) : Byte :=
  ((id &&& 0x0F) <<< 1) ||| Config.ssidReserved ||| boolByte final

/-- `addr_encode(c, id, final)`: exactly 7 bytes (R121). -/
def addrEncode (c : Bytes) (id : Byte) (final : Bool) : Bytes :=
  (callsign6 c).map (fun ch : Byte => ch <<< 1) ++ [ssidByte id final]

/-- Trailing spaces taken off, and only those (R124). -/
def trimSpaces (c : Bytes) : Bytes := (c.reverse.dropWhile (· == space)).reverse

/-- The callsign of an address field (R124). -/
def fieldCall (f : Bytes) : Bytes := trimSpaces ((f.take Config.callLen).map fun b : Byte => b >>> 1)

/-- The id of an address field: `(f[6] >> 1) & 0xF` (R124). -/
def fieldId (f : Bytes) : BitVec 4 := (f.getD Config.callLen 0 >>> 1).setWidth 4

/-- ADDRENC (R123): always OK, with the encoded field. -/
def execAddrenc (call : Bytes) (id : Byte) (final : Bool) (s : State) :
    Host.Outcome State Fault Refusal :=
  .next (s.answerOk (addrEncode call id final))

/-- ADDRDEC (R125): always OK, with the callsign and the id of the field. -/
def execAddrdec (field : Bytes) (s : State) : Host.Outcome State Fault Refusal :=
  .next (s.answerOk (blobBytes (fieldCall field) ++ [idByte (fieldId field)]))

end Sys2Proof.Machine
end

