-- ==== Sys2Proof/Machine/Build.lean ====
section
/-! DEFINITION. FrameBuilder (spec/43_frame_build.md): the frame, how it is written into the granted
buffer, and the meanings of BUILD and BUILDCFG. -/

namespace Sys2Proof.Machine

/-- Everything between the opening flag and the checksum (R140, R142). -/
def frameBody (dc : Bytes) (di : Byte) (sc : Bytes) (si : Byte) (info : Bytes) : Bytes :=
  addrEncode dc di false ++ addrEncode sc si true ++ [Config.ctrlUi] ++ [Config.pidNoL3] ++ info

/-- `assemble(dc, di, sc, si, info)`: the frame (R140, R60). -/
def assemble (dc : Bytes) (di : Byte) (sc : Bytes) (si : Byte) (info : Bytes) : Bytes :=
  [Config.flag] ++ frameBody dc di sc si info ++ u16Field (crc16 (frameBody dc di sc si info)) ++
    [Config.flag]

/-- Opening flag, addresses, control, PID and information, written at their offsets in the order of
emission (R141). -/
def writeBody (buf dc : Bytes) (di : Byte) (sc : Bytes) (si : Byte) (info : Bytes) : Bytes :=
  memWrite
    (memWrite
      (memWrite
        (memWrite
          (memWrite
            (memWrite buf 0 [Config.flag])
            1 (addrEncode dc di false))
          8 (addrEncode sc si true))
        15 [Config.ctrlUi])
      16 [Config.pidNoL3])
    17 info

/-- The checksum, low byte first, at offset k, and the closing flag after it (R141, R43). -/
def writeTail (buf : Bytes) (k : Nat) (c : U16) : Bytes :=
  memWrite (memWrite (memWrite buf k [lowByte c]) (k + 1) [highByte c]) (k + 2) [Config.flag]

/-- The frame written into a buffer (R141), its checksum taken over the offsets 1 to 16+N already
written there (R142). -/
def writeFrame (buf dc : Bytes) (di : Byte) (sc : Bytes) (si : Byte) (info : Bytes) : Bytes :=
  writeTail (writeBody buf dc di sc si info) (17 + info.length)
    (crc16 (slice (writeBody buf dc di sc si info) 1 (17 + info.length)))

/-- Acquire a buffer, write the frame, answer it (R144), or answer AllocationFailure (R146). One
request, before any write, for exactly 20 + N bytes. -/
def buildFrame (dc : Bytes) (di : Byte) (sc : Bytes) (si : Byte) (info : Bytes) (s : State) :
    Host.Outcome State Fault Refusal :=
  match s.alloc (Config.frameOverhead + info.length) with
  | .silent => .fault .allocatorSilent
  | .failed s => .next ((s.notify .allocationFailed).raise .allocationFailure)
  | .granted buf s =>
    .next ((s.notify .frameBuilt).answerOk (blobBytes (writeFrame buf dc di sc si info)))

/-- BUILD (R144): it reads no StationConfig register (R53). -/
def execBuild (dcall : Bytes) (did : Byte) (scall : Bytes) (sid : Byte) (info : Bytes) (s : State) :
    Host.Outcome State Fault Refusal :=
  buildFrame dcall did scall sid info s

/-- BUILDCFG (R145): BUILD with one snapshot of the StationConfig registers, torn only where the host
lets setters overlap it (R52). -/
def execBuildcfg (info : Bytes) (s : State) : Host.Outcome State Fault Refusal :=
  buildFrame s.snapshot.dstCall (idByte s.snapshot.dstId) s.snapshot.srcCall
    (idByte s.snapshot.srcId) info s

end Sys2Proof.Machine
end

