-- ==== Sys2Proof/Machine/Configuration.lean ====
section
/-! DEFINITION. Configuration (spec/45_config.md): the meanings of SETSRC, SETDST and SETOPT. -/

namespace Sys2Proof.Machine

/-- SETSRC (R181): the truncated callsign and the masked id go to the source registers. -/
def execSetsrc (call : Bytes) (id : Byte) (s : State) : Host.Outcome State Fault Refusal :=
  .next ({ s with
    cfg := { s.cfg with srcCall := storedCall call, srcId := maskId id } }.answerOk [])

/-- SETDST (R183): the truncated callsign and the masked id go to the destination registers. -/
def execSetdst (call : Bytes) (id : Byte) (s : State) : Host.Outcome State Fault Refusal :=
  .next ({ s with
    cfg := { s.cfg with dstCall := storedCall call, dstId := maskId id } }.answerOk [])

/-- SETOPT (R184): both option bits are written, and bits 7:2 stay 0 (R25). -/
def execSetopt (verify strict : Bool) (s : State) : Host.Outcome State Fault Refusal :=
  .next ({ s with opt := optsByte verify strict }.answerOk [])

end Sys2Proof.Machine
end

