-- ==== Sys2Proof/Machine/Parse.lean ====
section
/-! DEFINITION. FrameParser (spec/44_frame_parse.md): validating and decoding a received frame, and the
meaning of PARSE. -/

namespace Sys2Proof.Machine

/-- What PARSE returns of a frame it accepts (R77). -/
structure ParsedFrame where
  dstCall : Bytes
  dstId : BitVec 4
  srcCall : Bytes
  srcId : BitVec 4
  info : Bytes
  deriving DecidableEq, Repr

/-- The result fields of an accepted frame (R77). -/
def parsedFields (p : ParsedFrame) : Bytes :=
  blobBytes p.dstCall ++ [idByte p.dstId] ++ blobBytes p.srcCall ++ [idByte p.srcId] ++
    blobBytes p.info

/-- opt.VERIFY (R25). -/
def optVerify (opt : Byte) : Bool := opt.getLsbD 0

/-- opt.STRICT (R25). -/
def optStrict (opt : Byte) : Bool := opt.getLsbD 1

/-- The byte at offset k of a frame. Every k used here is below the length (R42). -/
def frameByte (f : Bytes) (k : Nat) : Byte := f.getD k 0

/-- Both end bytes equal FLAG (R162). -/
def framed (f : Bytes) : Bool :=
  frameByte f 0 == Config.flag && frameByte f (f.length - 1) == Config.flag

/-- The received checksum: `f[L-3] | (f[L-2] << 8)` (R164). -/
def receivedCrc (f : Bytes) : U16 :=
  u16OfBytes (frameByte f (f.length - 3)) (frameByte f (f.length - 2))

/-- The checksum recomputed over offsets 1 to L-4 (R164). -/
def recomputedCrc (f : Bytes) : U16 := crc16 (slice f 1 (f.length - 3))

/-- Control and PID are the fixed values (R165). -/
def fixedControlPid (f : Bytes) : Bool :=
  frameByte f 15 == Config.ctrlUi && frameByte f 16 == Config.pidNoL3

/-- The addresses and the information field at their fixed offsets (R163, R166). -/
def parsedFrame (f : Bytes) : ParsedFrame :=
  { dstCall := fieldCall (slice f 1 8), dstId := fieldId (slice f 1 8)
    srcCall := fieldCall (slice f 8 15), srcId := fieldId (slice f 8 15)
    info := slice f 17 (f.length - 3) }

/-- The validation steps in their order (R160, R210): the first that fails is the status. -/
def parseFrame (opt : Byte) (f : Bytes) : Except Status ParsedFrame :=
  if f.length < Config.minFrameLen then .error .frameTooShort
  else if framed f = false then .error .invalidFraming
  else if optVerify opt ∧ recomputedCrc f ≠ receivedCrc f then .error .checksumMismatch
  else if optStrict opt ∧ fixedControlPid f = false then .error .unexpectedControlOrPid
  else .ok (parsedFrame f)

/-- PARSE (R160): an absent input is InvalidInput (R167); otherwise the first failing step's status, or
OK with the decoded fields and the event FrameReceived. -/
def execParse (frame : Option Bytes) (s : State) : Host.Outcome State Fault Refusal :=
  match frame with
  | none => .next (s.raise .invalidInput)
  | some f =>
    match parseFrame s.opt f with
    | .error st => .next (s.raise st)
    | .ok p => .next ((s.notify .frameReceived).answerOk (parsedFields p))

end Sys2Proof.Machine
end

