-- ==== Sys2Proof/Machine/Dispatch.lean ====
section
/-! DEFINITION. Which meaning each command has, one arm per row of spec/opcode_table.json (R70). -/

namespace Sys2Proof.Machine

def exec (i : Instr) (s : State) : Host.Outcome State Fault Refusal :=
  match i with
  | .crc16 data => Sys2Proof.Machine.execCrc16 data s
  | .addrenc call id final => Sys2Proof.Machine.execAddrenc call id final s
  | .addrdec field => Sys2Proof.Machine.execAddrdec field s
  | .build dcall did scall sid info => Sys2Proof.Machine.execBuild dcall did scall sid info s
  | .buildcfg info => Sys2Proof.Machine.execBuildcfg info s
  | .parse frame => Sys2Proof.Machine.execParse frame s
  | .setsrc call id => Sys2Proof.Machine.execSetsrc call id s
  | .setdst call id => Sys2Proof.Machine.execSetdst call id s
  | .setopt verify strict => Sys2Proof.Machine.execSetopt verify strict s

end Sys2Proof.Machine
end

