-- ==== Sys2Proof/Machine/Step.lean ====
section
/-! DEFINITION. One step of the machine: what the command port does with its next input
(spec/10_state.md R20), and how an opcode-table word is placed there. -/

namespace Sys2Proof.Machine

/-- One step. -/
def step (s : State) : Host.Outcome State Fault Refusal := runPort exec s

/-- The state with the command of an opcode-table word as the next input of the port, and an answer at
the allocator port if none waits there (log entries 4, 5 and 14). -/
def State.withFetchWord (s : State) (nbits w : Nat) : State := s.deliver (tableDescriptor nbits w)

end Sys2Proof.Machine
end

