-- ==== Sys2Proof/Machine/Adapter.lean ====
section
/-! DEFINITION. The host-side adapter that joins the block to the transport (spec/00_scope.md R17): its
transmit path (spec/60_exceptions.md R225) and its receive path (R226), with the release duties of R222.
The block neither releases nor transmits (R46, R223): these are acts of the host's, around one command
of the block. -/

namespace Sys2Proof.Machine

/-- The buffers an adapter may hold around one command (R222). -/
inductive HeldBuffer where
  /-- the payload it held for a build -/
  | payload
  /-- the frame a build handed out -/
  | frame
  /-- the raw frame it received -/
  | received
  deriving DecidableEq, Repr

/-- What an adapter does at its own ports (R220, R223, R225, R226). DESIGN CHOICE, safe (log entry 13):
its event has a kind and no details, of which R224 says that they are any value. -/
inductive AdapterAct where
  | transmit (frame : Bytes)
  | notify (kind : EventKind)
  | release (b : HeldBuffer)
  /-- addressing and information field, as the response holds them, to the transport or display -/
  | handOver (fields : Bytes)
  /-- the failure of a build, by its status byte, to the caller -/
  | report (status : Byte)
  deriving DecidableEq, Repr

/-- The newest response of the block. -/
def State.lastResponse (s : State) : Bytes := s.responses.getLastD []

/-- The frame in an OK response of a build (R77). -/
def frameOfResponse (r : Bytes) : Option Bytes :=
  match r with
  | 0x00#8 :: fields =>
    match readBlob fields with
    | .ok (frame, []) => some frame
    | _ => none
  | _ => none

/-- A command the adapter issues. A block with its fault mark set takes none (R30). One whose operands
are too long for any descriptor the decoder takes is answered IllegalCommand (R68, R74); DESIGN CHOICE,
safe (log entry 13): so is one whose blob is too long for the length prefix, of which no descriptor
exists.
DESIGN CHOICE, safe (log entry 13), as R225 and R226 do not say how the command stands to inputs already
waiting at the command port: it is run from s outside the port, ahead of them, and takes none of them
off; a BUILDCFG reads the registers by the draw of overlapping setters that heads the port. -/
def issue (i : Instr) (s : State) : Host.Outcome State Fault Refusal :=
  if s.fault then .fault .contractViolation
  else if i.wf then exec i s
  else .next (s.raise .illegalCommand)

/-- What the adapter does once the block has answered its BUILDCFG (R225): on OK it transmits, emits
TransmissionFailed if that fails, and releases the frame once in either case; otherwise it releases its
payload buffer, if any, transmits nothing and reports the failure.
DESIGN CHOICE (log entry 13), in two points R225 leaves open. On OK a payload buffer the adapter holds is
not released here: it stays held, and its release is its owner's. The acts R225 gives for
AllocationFailure are those of IllegalCommand too, the only other failure a BUILDCFG can meet. -/
def transmitActs (holdsPayload transmitOk : Bool) (response : Bytes) : List AdapterAct :=
  match frameOfResponse response with
  | some frame =>
    [.transmit frame] ++ (if transmitOk then [] else [.notify .transmissionFailed]) ++ [.release .frame]
  | none =>
    (if holdsPayload then [.release .payload] else []) ++ [.report (response.headD 0)]

/-- The transmit path (R225): BUILDCFG with the payload, then the adapter's acts. With no answer from the
allocator, or with the fault mark set, there is no response and so no act. A payload longer than
MAX_INFO_LEN is answered IllegalCommand (R74), of which R225 says nothing: log entry 13. -/
def transmitPath (payload : Bytes) (holdsPayload transmitOk : Bool) (s : State) :
    Option (State × List AdapterAct) :=
  match issue (.buildcfg payload) s with
  | .next t => some (t, transmitActs holdsPayload transmitOk t.lastResponse)
  | _ => none

/-- What the adapter does once the block has answered its PARSE (R226): on OK it hands the fields over;
in every case it releases the original buffer once. -/
def receiveActs (response : Bytes) : List AdapterAct :=
  match response with
  | 0x00#8 :: fields => [.handOver fields, .release .received]
  | _ => [.release .received]

/-- The receive path (R226): PARSE with the raw frame, then the adapter's acts. -/
def receivePath (raw : Bytes) (s : State) : Option (State × List AdapterAct) :=
  match issue (.parse (some raw)) s with
  | .next t => some (t, receiveActs t.lastResponse)
  | _ => none

end Sys2Proof.Machine
end

