-- ==== Sys2Proof/Safety.lean ====
section
/-! DEFINITION. The terms in which claims about the machine are made: the invariant of the registers,
what a command leaves alone, the values a torn read may give, and the callsigns the round-trip laws
are about. -/

namespace Sys2Proof.Machine

/-- The registers hold values of their types: callsigns of at most 6 bytes (R24) and bits 7:2 of the
option register zero (R25). -/
structure State.Inv (s : State) : Prop where
  srcCallFits : s.cfg.srcCall.length ≤ 6
  dstCallFits : s.cfg.dstCall.length ≤ 6
  optReserved : s.opt &&& 0xFC = 0

/-- No register of the block differs: the four StationConfig registers, the option register and the
fault mark (R23). -/
def SameRegisters (s t : State) : Prop := t.cfg = s.cfg ∧ t.opt = s.opt ∧ t.fault = s.fault

/-- Nothing but the outputs differs: no register, no waiting input, no waiting answer and no free
value. -/
def OnlyOutputs (s t : State) (new : List Output) : Prop := t = { s with outputs := s.outputs ++ new }

/-- The command at the head of the port overlaps no setter: the host serializes it (R51, R234). -/
def State.Serialized (s : State) : Prop := s.race.overlap = 0

/-- The values R52 lets a BUILDCFG read from `cfg.src_call`. -/
def State.srcCallReads (s : State) : List Bytes :=
  s.cfg.srcCall :: s.overlapping.filterMap fun
    | .setsrc call _ => some (call.take 6)
    | _ => none

/-- The values R52 lets a BUILDCFG read from `cfg.src_id`. -/
def State.srcIdReads (s : State) : List (BitVec 4) :=
  s.cfg.srcId :: s.overlapping.filterMap fun
    | .setsrc _ id => some (id.setWidth 4)
    | _ => none

/-- The values R52 lets a BUILDCFG read from `cfg.dst_call`. -/
def State.dstCallReads (s : State) : List Bytes :=
  s.cfg.dstCall :: s.overlapping.filterMap fun
    | .setdst call _ => some (call.take 6)
    | _ => none

/-- The values R52 lets a BUILDCFG read from `cfg.dst_id`. -/
def State.dstIdReads (s : State) : List (BitVec 4) :=
  s.cfg.dstId :: s.overlapping.filterMap fun
    | .setdst _ id => some (id.setWidth 4)
    | _ => none

/-- A callsign the round-trip laws are about: 0 to 6 printable non-space bytes (R126). -/
def RoundTripCall (c : Bytes) : Prop := c.length ≤ 6 ∧ ∀ b ∈ c, 0x21 ≤ b ∧ b ≤ 0x7E

end Sys2Proof.Machine
end

