-- ==== Sys2Proof/Certificates/Slice0/Obligations.lean ====
section
/-! DEFINITION. The statements made of the machine, each from the numbered rules its docstring names.
A next state is written out as a record wherever it can be: what the record does not name is
unchanged, so the equation is the command's frame too. -/

open Sys2Proof Sys2Proof.Machine

/-! ## Encoding (spec/30_encoding.md) -/

/-- R72: decode of a command's descriptor gives the command back, with every operand at every value. -/
def Obligations.DecodeOfEncode : Prop :=
  ∀ i : Instr, i.wf = true → decode (encode i) = .ok i

/-- R72: whatever decodes is the one descriptor of a command a descriptor can express. -/
def Obligations.EncodeOfDecode : Prop :=
  ∀ (d : Bytes) (i : Instr), decode d = .ok i → i.wf = true ∧ encode i = d

/-- R81: the sample descriptors, written out byte by byte, decode to their commands, and the refused
ones to nothing. -/
def Obligations.SampleDescriptorsDecode : Prop :=
  decode [0x01, 0x00, 0x00, 0x00, 0x00] = .ok (.crc16 []) ∧
  decode [0x01, 0x09, 0x00, 0x00, 0x00, 0x31, 0x32, 0x33, 0x34, 0x35, 0x36, 0x37, 0x38, 0x39] =
    .ok (.crc16 [0x31, 0x32, 0x33, 0x34, 0x35, 0x36, 0x37, 0x38, 0x39]) ∧
  decode [0x02, 0x02, 0x00, 0x00, 0x00, 0x43, 0x51, 0x00, 0x00] =
    .ok (.addrenc [0x43, 0x51] 0 false) ∧
  decode [0x03, 0x86, 0xA2, 0x40, 0x40, 0x40, 0x40, 0x60] =
    .ok (.addrdec [0x86, 0xA2, 0x40, 0x40, 0x40, 0x40, 0x60]) ∧
  decode [0x07, 0x06, 0x00, 0x00, 0x00, 0x4E, 0x30, 0x43, 0x41, 0x4C, 0x4C, 0x00] =
    .ok (.setsrc [0x4E, 0x30, 0x43, 0x41, 0x4C, 0x4C] 0) ∧
  decode [0x08, 0x02, 0x00, 0x00, 0x00, 0x43, 0x51, 0x00] = .ok (.setdst [0x43, 0x51] 0) ∧
  decode [0x09, 0x01] = .ok (.setopt true false) ∧
  decode [0x06, 0x00] = .ok (.parse none) ∧
  decode [0x05, 0x00, 0x00, 0x00, 0x00] = .ok (.buildcfg []) ∧
  ∀ d ∈ ([[0x0A], [0x00], [], [0x09, 0x04], [0x06, 0x02], [0x01, 0x05, 0x00, 0x00, 0x00, 0x31],
      [0x09, 0x01, 0x00]] : List Bytes), (decode d).toOption = none

/-- R74: the six ways a descriptor is malformed. Nothing after the byte at fault is read: the fault of
a bool, of an opts byte and of a reserved opcode stands whatever follows. -/
def Obligations.MalformedDescriptorsRefused : Prop :=
  (decode []).toOption = none ∧
  (∀ (i : Instr) (k : Nat), i.wf = true → k < (encode i).length →
    (decode ((encode i).take k)).toOption = none) ∧
  (∀ (i : Instr) (b : Byte) (rest : Bytes), i.wf = true →
    (decode (encode i ++ b :: rest)).toOption = none) ∧
  (∀ (call : Bytes) (id b : Byte) (rest : Bytes), call.length ≤ 4294967295 → b ≠ 0 → b ≠ 1 →
    (decode (0x02 :: blobBytes call ++ id :: b :: rest)).toOption = none) ∧
  (∀ (b : Byte) (rest : Bytes), b ≠ 0 → b ≠ 1 → (decode (0x06 :: b :: rest)).toOption = none) ∧
  (∀ (o : Byte) (rest : Bytes), o &&& 0xFC ≠ 0 → (decode (0x09 :: o :: rest)).toOption = none) ∧
  (∀ (info rest : Bytes), 4294967275 < info.length → info.length ≤ 4294967295 →
    (decode (0x05 :: blobBytes info ++ rest)).toOption = none) ∧
  (∀ (dcall scall info : Bytes) (did sid : Byte) (rest : Bytes), dcall.length ≤ 4294967295 →
    scall.length ≤ 4294967295 → 4294967275 < info.length → info.length ≤ 4294967295 →
    (decode (0x04 :: blobBytes dcall ++ [did] ++ blobBytes scall ++ [sid] ++ blobBytes info ++
      rest)).toOption = none)

/-- R73: a reserved opcode, whatever follows it, is refused with status IllegalCommand; it changes no
state, requests no buffer and emits no event. -/
def Obligations.ReservedOpcodesRefused : Prop :=
  ∀ (s : State) (op : Byte) (rest : Bytes) (race : Race) (later : List HostInput),
    (op = 0x00 ∨ 0x0A ≤ op) → s.port = .command (op :: rest) race :: later → s.fault = false →
    step s = .next { s with port := later, outputs := s.outputs ++ [.response [0x07]] }

/-- R74, R208: a descriptor that decodes to nothing is answered IllegalCommand and nothing else
happens. -/
def Obligations.MalformedCommandChangesNothing : Prop :=
  ∀ (s : State) (d : Bytes) (race : Race) (later : List HostInput),
    (decode d).toOption = none → s.port = .command d race :: later → s.fault = false →
    step s = .next { s with port := later, outputs := s.outputs ++ [.response [0x07]] }

/-! ## ChecksumEngine (spec/41_checksum.md) -/

/-- R100: every entry of the table is eight reflected shift steps of its index with 0x8408. -/
def Obligations.CrcTableEntries : Prop :=
  ∀ i : Byte, crcTable i = (fun c : U16 => if c.getLsbD 0 then (c >>> 1) ^^^ 0x8408 else c >>> 1)^[8]
    (i.setWidth 16)

/-- R102: the bit-serial computation gives the same result for every input. -/
def Obligations.CrcBitSerialAgrees : Prop := ∀ s : Bytes, crc16 s = crc16Bitwise s

/-- R104: the checksum of the empty sequence, and two orders of one set of bytes; R105: the check
value. -/
def Obligations.CrcCheckValues : Prop :=
  crc16 [] = 0x0000 ∧
  crc16 [0x31, 0x32, 0x33, 0x34, 0x35, 0x36, 0x37, 0x38, 0x39] = 0x906E ∧
  crc16 [0x32, 0x31, 0x33, 0x34, 0x35, 0x36, 0x37, 0x38, 0x39] = 0xCCB9

/-- R106: appending the checksum to its data, low byte first, gives 0x0F47, for every sequence. -/
def Obligations.CrcResidue : Prop :=
  ∀ s : Bytes, crc16 (s ++ [(crc16 s).setWidth 8, (crc16 s >>> 8).setWidth 8]) = 0x0F47

/-- R103: CRC16 answers OK with the checksum, low byte first, from every state, and changes nothing
else; and the rule's two corner values. -/
def Obligations.Crc16Command : Prop :=
  ∀ (data : Bytes) (s : State),
    encode (.crc16 data) = 0x01 :: blobBytes data ∧
    exec (.crc16 data) s = .next { s with outputs := s.outputs ++
      [.response [0x00, (crc16 data).setWidth 8, (crc16 data >>> 8).setWidth 8]] } ∧
    crc16 [] = 0x0000 ∧ crc16 [0x00] = 0xF078

/-! ## AddressCodec (spec/42_address.md) -/

/-- R121: the seven bytes of an address field. -/
def Obligations.AddressFieldLayout : Prop :=
  ∀ (c : Bytes) (id : Byte) (final : Bool),
    (addrEncode c id final).length = 7 ∧
    (∀ k, k < 6 → (addrEncode c id final)[k]? = some (c.getD k 0x20 <<< 1)) ∧
    (addrEncode c id final)[6]? =
      some (((id &&& 0xF) <<< 1) ||| 0x60 ||| (if final then 0x01 else 0x00))

/-- R122: the fixed bits of every address field, and the range of its SSID byte. -/
def Obligations.AddressFieldFixedBits : Prop :=
  ∀ (c : Bytes) (id : Byte) (final : Bool) (b : Byte),
    (∀ k, k < 6 → (addrEncode c id final)[k]? = some b → b.getLsbD 0 = false) ∧
    ((addrEncode c id final)[6]? = some b →
      b.getLsbD 7 = false ∧ b.getLsbD 6 = true ∧ b.getLsbD 5 = true ∧ b.getLsbD 0 = final ∧
      0x60 ≤ b ∧ b ≤ 0x7F)

/-- R124: the decoded callsign is the six shifted bytes less their trailing spaces and nothing else,
and the id is bits 4:1 of the last byte. -/
def Obligations.AddressFieldDecoding : Prop :=
  ∀ f : Bytes, f.length = 7 →
    (fieldCall f).length ≤ 6 ∧
    (∀ k, k < 6 → f.getD k 0 >>> 1 = (fieldCall f).getD k 0x20) ∧
    (fieldCall f).getLast? ≠ some 0x20 ∧
    (fieldId f).toNat = (f.getD 6 0).toNat / 2 % 16

/-- R126: the address round trip, where it holds, what truncation gives, and where it does not hold. -/
def Obligations.AddressRoundTrip : Prop :=
  (∀ (c : Bytes) (id : Byte) (final : Bool), RoundTripCall c → id ≤ 15 →
    fieldCall (addrEncode c id final) = c ∧ idByte (fieldId (addrEncode c id final)) = id) ∧
  (∀ (c : Bytes) (id : Byte) (final : Bool), 6 < c.length → (∀ b ∈ c, 0x21 ≤ b ∧ b ≤ 0x7E) →
    fieldCall (addrEncode c id final) = c.take 6) ∧
  (∀ (c : Bytes) (id : Byte) (final : Bool),
    (c.getLast? = some 0x20 ∨ (∃ b ∈ c, 0x80 ≤ b) ∨ 6 < c.length) →
    fieldCall (addrEncode c id final) ≠ c)

/-- R127: padding and truncation seen through the encoded form. -/
def Obligations.AddressPaddingAndTruncation : Prop :=
  (∀ (c : Bytes) (id : Byte) (final : Bool) (k : Nat), c.length ≤ k → k < 6 →
    (addrEncode c id final)[k]? = some 0x40) ∧
  (∀ (c : Bytes) (id : Byte) (final : Bool), c.length < 6 → (∀ b ∈ c, b < 0x80) →
    c.getLast? ≠ some 0x20 → fieldCall (addrEncode c id final) = c) ∧
  (∀ (c : Bytes) (id : Byte) (final : Bool), 6 < c.length →
    addrEncode c id final = addrEncode (c.take 6) id final)

/-- R123: ADDRENC answers OK with the encoded field, from every state, and changes nothing else. -/
def Obligations.AddrencCommand : Prop :=
  ∀ (call : Bytes) (id : Byte) (final : Bool) (s : State),
    encode (.addrenc call id final) =
      0x02 :: blobBytes call ++ [id, if final then 0x01 else 0x00] ∧
    exec (.addrenc call id final) s = .next { s with outputs := s.outputs ++
      [.response (0x00 :: addrEncode call id final)] }

/-- R125: ADDRDEC answers OK with the callsign and the id, from every state, and changes nothing else;
the callsign never has more than 6 bytes, each at most 0x7F, and the id is at most 15. -/
def Obligations.AddrdecCommand : Prop :=
  ∀ (field : Bytes) (s : State), field.length = 7 →
    encode (.addrdec field) = 0x03 :: field ∧
    exec (.addrdec field) s = .next { s with outputs := s.outputs ++
      [.response (0x00 :: blobBytes (fieldCall field) ++ [idByte (fieldId field)])] } ∧
    (fieldCall field).length ≤ 6 ∧ (∀ b ∈ fieldCall field, b ≤ 0x7F) ∧ idByte (fieldId field) ≤ 15

/-! ## FrameBuilder (spec/43_frame_build.md) -/

/-- R141: the buffer, whatever it held, holds the assembled frame once written. -/
def Obligations.WrittenBufferIsAssembledFrame : Prop :=
  ∀ (buf dc : Bytes) (di : Byte) (sc : Bytes) (si : Byte) (info : Bytes),
    buf.length = 20 + info.length → writeFrame buf dc di sc si info = assemble dc di sc si info

/-- R143: the length of a built frame, for every operand value. -/
def Obligations.AssembledFrameLength : Prop :=
  ∀ (dc : Bytes) (di : Byte) (sc : Bytes) (si : Byte) (info : Bytes),
    (assemble dc di sc si info).length = 20 + info.length

/-- R60, R142: each field of a built frame at its offsets, with the checksum over offsets 1 to 16+N. The
flag 0x7E, the control byte 0x03 and the PID 0xF0 are the values R64 takes (D5 to D7), a choice: log
entry 2. -/
def Obligations.AssembledFrameLayout : Prop :=
  ∀ (dc : Bytes) (di : Byte) (sc : Bytes) (si : Byte) (info f : Bytes),
    f = assemble dc di sc si info →
    f[0]? = some 0x7E ∧
    (f.drop 1).take 7 = addrEncode dc di false ∧
    (f.drop 8).take 7 = addrEncode sc si true ∧
    f[15]? = some 0x03 ∧
    f[16]? = some 0xF0 ∧
    (f.drop 17).take info.length = info ∧
    f[17 + info.length]? = some ((crc16 ((f.drop 1).take (16 + info.length))).setWidth 8) ∧
    f[18 + info.length]? = some ((crc16 ((f.drop 1).take (16 + info.length)) >>> 8).setWidth 8) ∧
    f[19 + info.length]? = some 0x7E

/-- R144: when the allocator grants, BUILD asks for exactly 20 + N bytes, emits FrameBuilt, answers OK
with the assembled frame, and writes no register. -/
def Obligations.BuildGranted : Prop :=
  ∀ (dcall : Bytes) (did : Byte) (scall : Bytes) (sid : Byte) (info : Bytes) (s : State)
    (rest : List AllocAnswer), s.allocator = .granted :: rest →
    encode (.build dcall did scall sid info) =
      0x04 :: blobBytes dcall ++ [did] ++ blobBytes scall ++ [sid] ++ blobBytes info ∧
    ∃ (t : State) (details : Bytes), exec (.build dcall did scall sid info) s = .next t ∧
      SameRegisters s t ∧ t.port = s.port ∧ t.allocator = rest ∧
      t.outputs = s.outputs ++ [.request (20 + info.length), .event .frameBuilt details,
        .response (0x00 :: blobBytes (assemble dcall did scall sid info))]

/-- R146: when the allocator fails, BUILD answers AllocationFailure and emits AllocationFailed; no
register, no frame, no second request. -/
def Obligations.BuildAllocationFailed : Prop :=
  ∀ (dcall : Bytes) (did : Byte) (scall : Bytes) (sid : Byte) (info : Bytes) (s : State)
    (rest : List AllocAnswer), s.allocator = .failed :: rest →
    ∃ (t : State) (details : Bytes), exec (.build dcall did scall sid info) s = .next t ∧
      SameRegisters s t ∧ t.port = s.port ∧ t.allocator = rest ∧
      t.outputs = s.outputs ++ [.request (20 + info.length), .event .allocationFailed details,
        .response [0x01]]

/-- R145: when the host serializes and the allocator grants, BUILDCFG builds the frame the four
registers address, and writes no register. -/
def Obligations.BuildcfgGranted : Prop :=
  ∀ (info : Bytes) (s : State) (rest : List AllocAnswer), s.Serialized →
    s.allocator = .granted :: rest →
    encode (.buildcfg info) = 0x05 :: blobBytes info ∧
    ∃ (t : State) (details : Bytes), exec (.buildcfg info) s = .next t ∧
      SameRegisters s t ∧ t.port = s.port ∧ t.allocator = rest ∧
      t.outputs = s.outputs ++ [.request (20 + info.length), .event .frameBuilt details,
        .response (0x00 :: blobBytes (assemble s.cfg.dstCall (s.cfg.dstId.setWidth 8)
          s.cfg.srcCall (s.cfg.srcId.setWidth 8) info))]

/-- R146: when the allocator fails, BUILDCFG answers AllocationFailure as BUILD does, overlapped or
not. -/
def Obligations.BuildcfgAllocationFailed : Prop :=
  ∀ (info : Bytes) (s : State) (rest : List AllocAnswer), s.allocator = .failed :: rest →
    ∃ (t : State) (details : Bytes), exec (.buildcfg info) s = .next t ∧
      SameRegisters s t ∧ t.port = s.port ∧ t.allocator = rest ∧
      t.outputs = s.outputs ++ [.request (20 + info.length), .event .allocationFailed details,
        .response [0x01]]

/-- R145: serialized, BUILDCFG is exactly BUILD of the four registers, whatever the allocator does. -/
def Obligations.BuildcfgIsBuildOfRegisters : Prop :=
  ∀ (info : Bytes) (s : State), s.Serialized →
    exec (.buildcfg info) s = exec (.build s.cfg.dstCall (s.cfg.dstId.setWidth 8) s.cfg.srcCall
      (s.cfg.srcId.setWidth 8) info) s

/-- R52: BUILDCFG reads of each register the value before the overlapping setters or a value one of
them wrote, and nothing else. -/
def Obligations.TornReadsAreOldOrWritten : Prop :=
  ∀ (info : Bytes) (s : State),
    ∃ dc ∈ s.dstCallReads, ∃ di ∈ s.dstIdReads, ∃ sc ∈ s.srcCallReads, ∃ si ∈ s.srcIdReads,
      exec (.buildcfg info) s = exec (.build dc (di.setWidth 8) sc (si.setWidth 8) info) s

/-- R52: every such combination is admitted: some draw of the host's gives it. -/
def Obligations.EveryTornReadIsAdmitted : Prop :=
  ∀ (info : Bytes) (s : State) (d : Bytes) (race : Race) (later : List HostInput),
    s.port = .command d race :: later →
    ∀ dc ∈ s.dstCallReads, ∀ di ∈ s.dstIdReads, ∀ sc ∈ s.srcCallReads, ∀ si ∈ s.srcIdReads,
      ∃ race' : Race, race'.overlap = race.overlap ∧
        exec (.buildcfg info) { s with port := .command d race' :: later } =
          exec (.build dc (di.setWidth 8) sc (si.setWidth 8) info)
            { s with port := .command d race' :: later }

/-- R53: BUILD reads no StationConfig register, no option bit and nothing that waits at the command
port: it runs the same in any two states that differ only there. -/
def Obligations.BuildIgnoresConfiguration : Prop :=
  ∀ (dcall : Bytes) (did : Byte) (scall : Bytes) (sid : Byte) (info : Bytes) (s : State)
    (cfg : StationConfig) (opt : Byte) (port : List HostInput),
    (∀ t, exec (.build dcall did scall sid info) s = .next t →
      exec (.build dcall did scall sid info) { s with cfg := cfg, opt := opt, port := port } =
        .next { t with cfg := cfg, opt := opt, port := port }) ∧
    (∀ e, exec (.build dcall did scall sid info) s = .fault e →
      exec (.build dcall did scall sid info) { s with cfg := cfg, opt := opt, port := port } =
        .fault e)

/-- R24: the frame cannot tell an operand from its truncated and masked form. -/
def Obligations.TruncatedAddressingIsIndistinguishable : Prop :=
  ∀ (dcall : Bytes) (did : Byte) (scall : Bytes) (sid : Byte) (info : Bytes) (s : State),
    exec (.build (dcall.take 6) (did &&& 0xF) (scall.take 6) (sid &&& 0xF) info) s =
      exec (.build dcall did scall sid info) s

/-- R147: the end-to-end scenario, for every timestamp and value: what BUILD answers is 40 bytes, with
the facts the rule lists about them. The values 0x7E, 0x03 and 0xF0 of FLAG, CTRL_UI and PID_NO_L3 are
those R64 takes (D5 to D7), a choice: log entry 2. -/
def Obligations.EndToEndScenarioFrame : Prop :=
  ∀ (t0 t1 t2 t3 v0 v1 v2 v3 : Byte) (s : State) (rest : List AllocAnswer) (info : Bytes),
    s.allocator = .granted :: rest →
    info = [0x01, 0x50, 0x00, 0x01, t0, t1, t2, t3, v0, v1, v2, v3] ++ List.replicate 8 0xAA →
    ∃ (t : State) (f : Bytes),
      exec (.build [0x43, 0x51] 0 [0x4E, 0x30, 0x43, 0x41, 0x4C, 0x4C] 0 info) s = .next t ∧
      t.responses = s.responses ++ [0x00 :: blobBytes f] ∧
      f.length = 40 ∧ f[0]? = some 0x7E ∧ f[39]? = some 0x7E ∧
      (f.drop 1).take 7 = [0x86, 0xA2, 0x40, 0x40, 0x40, 0x40, 0x60] ∧
      (f.drop 8).take 7 = [0x9C, 0x60, 0x86, 0x82, 0x98, 0x98, 0x61] ∧
      f[15]? = some 0x03 ∧ f[16]? = some 0xF0 ∧ (f.drop 17).take 20 = info ∧
      f[37]? = some ((crc16 ((f.drop 1).take 36)).setWidth 8) ∧
      f[38]? = some ((crc16 ((f.drop 1).take 36) >>> 8).setWidth 8)

/-- R239: an allocator that gives no answer leaves the block stuck in the build; with an answer
waiting every command completes, and every command but BUILD and BUILDCFG completes in every state. -/
def Obligations.OnlySilentAllocatorStopsCommand : Prop :=
  (∀ (dcall : Bytes) (did : Byte) (scall : Bytes) (sid : Byte) (info : Bytes) (s : State),
    s.allocator = [] →
    exec (.build dcall did scall sid info) s = .fault .allocatorSilent ∧
    exec (.buildcfg info) s = .fault .allocatorSilent) ∧
  (∀ (i : Instr) (s : State), s.allocator ≠ [] → ∃ t, exec i s = .next t) ∧
  (∀ (i : Instr) (s : State),
    (∀ dcall did scall sid info, i ≠ .build dcall did scall sid info) →
    (∀ info, i ≠ .buildcfg info) → ∃ t, exec i s = .next t)

/-! ## FrameParser (spec/44_frame_parse.md) -/

/-- R167, R161, R162, R164, R165 in the order of R210: each error of PARSE, when it is the first that
applies; the response is its status byte and nothing else happens. The values 0x7E, 0x03 and 0xF0 are
those R64 takes (D5 to D7), a choice: log entry 2. The places of 0x05 and 0x06 in the order are, as R210
says, "the spec's own" (D12). -/
def Obligations.ParseErrorsInOrder : Prop :=
  ∀ s : State,
    exec (.parse none) s = .next { s with outputs := s.outputs ++ [.response [0x02]] } ∧
    ∀ f : Bytes,
      (f.length < 20 →
        exec (.parse (some f)) s = .next { s with outputs := s.outputs ++ [.response [0x03]] }) ∧
      (20 ≤ f.length → (f.head? ≠ some 0x7E ∨ f.getLast? ≠ some 0x7E) →
        exec (.parse (some f)) s = .next { s with outputs := s.outputs ++ [.response [0x04]] }) ∧
      (20 ≤ f.length → f.head? = some 0x7E → f.getLast? = some 0x7E →
        (s.opt.getLsbD 0 = true →
          crc16 ((f.drop 1).take (f.length - 4)) ≠ receivedCrc f →
          exec (.parse (some f)) s = .next { s with outputs := s.outputs ++ [.response [0x05]] }) ∧
        (s.opt.getLsbD 0 = false ∨ crc16 ((f.drop 1).take (f.length - 4)) = receivedCrc f →
          s.opt.getLsbD 1 = true → (f[15]? ≠ some 0x03 ∨ f[16]? ≠ some 0xF0) →
          exec (.parse (some f)) s = .next { s with outputs := s.outputs ++ [.response [0x06]] }))

/-- R160: PARSE of a frame that passes every check its options ask for answers OK with the five fields
at their fixed offsets, emits FrameReceived, requests no buffer and writes no register. The checks are
those of R161, R162, R164 and R165; their values 0x7E, 0x03 and 0xF0 are those R64 takes (D5 to D7), a
choice: log entry 2. -/
def Obligations.ParseAccepts : Prop :=
  ∀ (s : State) (f : Bytes), 20 ≤ f.length → f.head? = some 0x7E → f.getLast? = some 0x7E →
    (s.opt.getLsbD 0 = true → crc16 ((f.drop 1).take (f.length - 4)) = receivedCrc f) →
    (s.opt.getLsbD 1 = true → f[15]? = some 0x03 ∧ f[16]? = some 0xF0) →
    encode (.parse (some f)) = 0x06 :: 0x01 :: blobBytes f ∧
    ∃ (t : State) (details : Bytes), exec (.parse (some f)) s = .next t ∧
      SameRegisters s t ∧ t.port = s.port ∧ t.allocator = s.allocator ∧
      t.outputs = s.outputs ++ [.event .frameReceived details,
        .response (0x00 :: blobBytes (fieldCall ((f.drop 1).take 7)) ++
          [idByte (fieldId ((f.drop 1).take 7))] ++ blobBytes (fieldCall ((f.drop 8).take 7)) ++
          [idByte (fieldId ((f.drop 8).take 7))] ++
          blobBytes ((f.drop 17).take (f.length - 20)))]

/-- R164: the received checksum is the byte at L-3 and, above it, the byte at L-2. -/
def Obligations.ReceivedChecksumBytes : Prop :=
  ∀ (f : Bytes) (lo hi b : Byte) (c : U16),
    (receivedCrc (f ++ [lo, hi, b])).toNat = lo.toNat + 256 * hi.toNat ∧
    receivedCrc (f ++ [c.setWidth 8, (c >>> 8).setWidth 8, b]) = c

/-- R169: PARSE of a built frame gives back what BUILD was given, with any VERIFY and STRICT; and with
both options off PARSE accepts any sequence of at least 20 bytes with the flag at both ends. The flag's
value 0x7E is the one R64 takes (D5), a choice: log entry 2. -/
def Obligations.BuildParseRoundTrip : Prop :=
  (∀ (dc : Bytes) (di : Byte) (sc : Bytes) (si : Byte) (info : Bytes) (s : State),
    RoundTripCall dc → RoundTripCall sc → di ≤ 15 → si ≤ 15 →
    ∃ (t : State) (details : Bytes), exec (.parse (some (assemble dc di sc si info))) s = .next t ∧
      SameRegisters s t ∧
      t.outputs = s.outputs ++ [.event .frameReceived details,
        .response (0x00 :: blobBytes dc ++ [di] ++ blobBytes sc ++ [si] ++ blobBytes info)]) ∧
  (∀ (f : Bytes) (s : State), 20 ≤ f.length → f.head? = some 0x7E → f.getLast? = some 0x7E →
    s.opt.getLsbD 0 = false → s.opt.getLsbD 1 = false →
    ∃ (t : State) (details fields : Bytes), exec (.parse (some f)) s = .next t ∧
      t.outputs = s.outputs ++ [.event .frameReceived details, .response (0x00 :: fields)])

/-- R206, R207: with VERIFY off PARSE never answers ChecksumMismatch, and with STRICT off never
UnexpectedControlOrPid. -/
def Obligations.DisabledChecksNeverReported : Prop :=
  ∀ (frame : Option Bytes) (s t : State), exec (.parse frame) s = .next t →
    (s.opt.getLsbD 0 = false → t.responses ≠ s.responses ++ [[0x05]]) ∧
    (s.opt.getLsbD 1 = false → t.responses ≠ s.responses ++ [[0x06]])

/-! ## Configuration (spec/45_config.md) -/

/-- R181: SETSRC writes the truncated callsign and the masked id to the source registers, answers OK,
and changes nothing else. -/
def Obligations.SetsrcCommand : Prop :=
  ∀ (call : Bytes) (id : Byte) (s : State),
    encode (.setsrc call id) = 0x07 :: blobBytes call ++ [id] ∧
    exec (.setsrc call id) s = .next { s with
      cfg := { s.cfg with
        srcCall := call.take (min call.length 6), srcId := (id &&& 0xF).setWidth 4 }
      outputs := s.outputs ++ [.response [0x00]] }

/-- R183: SETDST writes the truncated callsign and the masked id to the destination registers, answers
OK, and changes nothing else. -/
def Obligations.SetdstCommand : Prop :=
  ∀ (call : Bytes) (id : Byte) (s : State),
    encode (.setdst call id) = 0x08 :: blobBytes call ++ [id] ∧
    exec (.setdst call id) s = .next { s with
      cfg := { s.cfg with
        dstCall := call.take (min call.length 6), dstId := (id &&& 0xF).setWidth 4 }
      outputs := s.outputs ++ [.response [0x00]] }

/-- R184: SETOPT writes VERIFY and STRICT, leaves bits 7:2 zero, answers OK, and changes nothing else;
an operand with any bit of 7:2 set is refused at decode. -/
def Obligations.SetoptCommand : Prop :=
  ∀ (verify strict : Bool) (s : State), ∃ o : Byte,
    encode (.setopt verify strict) = [0x09, o] ∧
    exec (.setopt verify strict) s = .next { s with
      opt := o
      outputs := s.outputs ++ [.response [0x00]] } ∧
    o.getLsbD 0 = verify ∧ o.getLsbD 1 = strict ∧ (∀ k, 2 ≤ k → o.getLsbD k = false) ∧
    ∀ r : Byte, r &&& 0xFC ≠ 0 → (decode [0x09, r]).toOption = none

/-- R24, R180: what a setter was given, and not only its stored form, is what the next serialized
BUILDCFG builds with. -/
def Obligations.SetterSeenByNextBuildcfg : Prop :=
  ∀ (dcall : Bytes) (did : Byte) (scall : Bytes) (sid : Byte) (info : Bytes) (s t u : State),
    s.Serialized → exec (.setdst dcall did) s = .next t → exec (.setsrc scall sid) t = .next u →
    exec (.buildcfg info) u = exec (.build dcall did scall sid info) u

/-- R49: a second identical setter leaves the registers as the first left them. -/
def Obligations.SettersIdempotent : Prop :=
  ∀ (i : Instr) (s t u : State), (i.opcode = 0x07 ∨ i.opcode = 0x08 ∨ i.opcode = 0x09) →
    exec i s = .next t → exec i t = .next u → SameRegisters t u

/-! ## The whole machine (spec/10_state.md, 20_memory.md, 60_exceptions.md, 70_reset_and_hazards.md) -/

/-- R20, R51: when the descriptor at the head of the port decodes to a command, step is exec of that
command, and then the command is gone from the port; the inputs behind it keep their order. -/
def Obligations.StepRunsDecodedCommand : Prop :=
  ∀ (s : State) (d : Bytes) (race : Race) (later : List HostInput) (i : Instr),
    s.port = .command d race :: later → s.fault = false → decode d = .ok i →
    (∀ t, exec i s = .next t → step s = .next { t with port := later }) ∧
    (∀ e, exec i s = .fault e → step s = .fault e) ∧
    (∀ r, exec i s = .refused r → step s = .refused r)

/-- R217: with nothing at the port the block is idle and keeps its state. -/
def Obligations.IdleKeepsState : Prop :=
  ∀ s : State, s.port = [] → s.fault = false → step s = .next s

/-- R30, R211: an absent operand sets the fault mark and gives no response; from then on the block
takes nothing but a reset. -/
def Obligations.ContractViolationStops : Prop :=
  (∀ (s : State) (later : List HostInput), s.port = .absentOperand :: later → s.fault = false →
    step s = .next { s with port := later, fault := true }) ∧
  (∀ s : State, s.fault = true → s.port.head? ≠ some .reset → step s = .fault .contractViolation) ∧
  (∀ (i : Instr) (s t : State), exec i s = .next t → t.fault = s.fault)

/-- R230, R32: a reset gives every register its reset value, clears the fault mark and the notify
history, has no response and emits no event. That the inputs waiting at the ports stay is the model's
choice (log entry 11). -/
def Obligations.ResetRestoresRegisters : Prop :=
  ∀ (s : State) (later : List HostInput), s.port = .reset :: later →
    ∃ t, step s = .next t ∧ t.cfg = State.reset.cfg ∧ t.opt = State.reset.opt ∧ t.fault = false ∧
      t.outputs = [] ∧ t.port = later ∧ t.allocator = s.allocator

/-- R32: the values the spec's reset table lists, the constant table of R100 among them. The reset
addressing and the reset options are the spec's decisions D9 and D10, a choice: log entry 3. -/
def Obligations.ResetValues : Prop :=
  State.reset.cfg.srcCall = [0x4E, 0x30, 0x43, 0x41, 0x4C, 0x4C] ∧ State.reset.cfg.srcId = 0 ∧
  State.reset.cfg.dstCall = [0x43, 0x51] ∧ State.reset.cfg.dstId = 0 ∧
  State.reset.opt.getLsbD 0 = true ∧ State.reset.opt.getLsbD 1 = false ∧
  (∀ k, 2 ≤ k → State.reset.opt.getLsbD k = false) ∧
  (∀ i : Byte, crcTable i = crcShift8 (i.setWidth 16)) ∧
  State.reset.fault = false ∧ State.reset.events = []

/-- R24, R25: the reset state meets the invariant of the registers. What they hold at reset is in part a
choice (D9, D10): log entry 3. -/
def Obligations.RegistersFitAtReset : Prop := State.reset.Inv

/-- R24, R25: every step keeps the invariant of the registers: callsigns of at most 6 bytes, bits 7:2
of the option register zero. -/
def Obligations.StepKeepsRegistersFitting : Prop :=
  ∀ s t : State, s.Inv → step s = .next t → t.Inv

/-- R75, R76: every command gives exactly one response; its status byte is one of 0x00 to 0x07, and a
response that is not OK is the status byte alone. -/
def Obligations.OneResponsePerCommand : Prop :=
  ∀ (s t : State) (d : Bytes) (race : Race) (later : List HostInput),
    s.port = .command d race :: later → step s = .next t →
    ∃ (status : Byte) (fields : Bytes), t.responses = s.responses ++ [status :: fields] ∧
      status ≤ 0x07 ∧ (status ≠ 0x00 → fields = [])

/-- R209: a command that ends with an error writes no register and delivers no result field; the only
event it emits is AllocationFailed, for AllocationFailure; and it asks the allocator once at most: it
does not retry. -/
def Obligations.ErrorsWriteNoRegister : Prop :=
  ∀ (s t : State) (d : Bytes) (race : Race) (later : List HostInput) (status : Byte)
    (fields : Bytes), s.port = .command d race :: later → step s = .next t →
    t.responses = s.responses ++ [status :: fields] → status ≠ 0x00 →
    SameRegisters s t ∧ fields = [] ∧ t.requests.length ≤ s.requests.length + 1 ∧
    (status = 0x01 → ∃ details, t.events = s.events ++ [(.allocationFailed, details)]) ∧
    (status ≠ 0x01 → t.events = s.events)

/-- R224, R31: a command emits at most one event, before its response, and none of them is
TransmissionFailed; the outputs before it stay as they were. -/
def Obligations.OutputsOfOneCommand : Prop :=
  ∀ (s t : State) (d : Bytes) (race : Race) (later : List HostInput),
    s.port = .command d race :: later → step s = .next t →
    ∃ (requests : List Nat) (events : List (EventKind × Bytes)) (response : Bytes),
      t.outputs = s.outputs ++ requests.map .request ++ events.map (fun e => .event e.1 e.2) ++
        [.response response] ∧
      requests.length ≤ 1 ∧ events.length ≤ 1 ∧ ∀ e ∈ events, e.1 ≠ .transmissionFailed

/-- R24, R25: only SETSRC writes the source registers, only SETDST the destination registers, only
SETOPT the option register, and no command the fault mark. -/
def Obligations.OnlySettersWriteRegisters : Prop :=
  ∀ (i : Instr) (s t : State), exec i s = .next t →
    (i.opcode ≠ 0x07 → t.cfg.srcCall = s.cfg.srcCall ∧ t.cfg.srcId = s.cfg.srcId) ∧
    (i.opcode ≠ 0x08 → t.cfg.dstCall = s.cfg.dstCall ∧ t.cfg.dstId = s.cfg.dstId) ∧
    (i.opcode ≠ 0x09 → t.opt = s.opt) ∧
    t.fault = s.fault

/-- R46: only BUILD and BUILDCFG ask the allocator for a buffer, once, for exactly 20 + N bytes. -/
def Obligations.OneAllocationPerBuild : Prop :=
  ∀ (i : Instr) (s t : State), exec i s = .next t →
    t.requests = s.requests ++ (match i with
      | .build _ _ _ _ info => [20 + info.length]
      | .buildcfg info => [20 + info.length]
      | _ => [])

/-- R49: CRC16, ADDRENC, ADDRDEC and PARSE read nothing of the state but the option register, and of
it PARSE alone: from two states with the same option register they answer the same. -/
def Obligations.PureCommandsAnswerAlike : Prop :=
  ∀ (i : Instr) (s s' t t' : State),
    (i.opcode = 0x01 ∨ i.opcode = 0x02 ∨ i.opcode = 0x03 ∨ i.opcode = 0x06) →
    (i.opcode = 0x06 → s.opt = s'.opt) → exec i s = .next t → exec i s' = .next t' →
    ∃ response, t.responses = s.responses ++ [response] ∧ t'.responses = s'.responses ++ [response]

/-- R49: the addressing registers are invisible but to BUILDCFG: no command other than BUILDCFG answers
differently, emits a different kind of event or asks for a different buffer when they differ. -/
def Obligations.AddressingSeenOnlyByBuildcfg : Prop :=
  ∀ (i : Instr) (s t : State) (cfg : StationConfig), i.opcode ≠ 0x05 → exec i s = .next t →
    ∃ t', exec i { s with cfg := cfg } = .next t' ∧ t'.outputs = t.outputs ∧ t'.opt = t.opt ∧
      t'.allocator = t.allocator

/-! ## The host-side adapter (spec/60_exceptions.md R222, R225, R226) -/

/-- R222, R225: on the transmit path a granted build is transmitted and its frame released exactly once,
with TransmissionFailed if the transport fails; a failed allocation transmits nothing, releases the
payload buffer once if the adapter holds one, and is reported; with no answer (R239) or the fault mark
set (R30) there are no acts. The model's choices (log entry 13): that the adapter is a function around
the block, that a held payload is not among the releases on OK, and that a payload no descriptor takes
(R74), of which R225 says nothing, has the acts of a failed allocation with its own status. -/
def Obligations.AdapterTransmitPath : Prop :=
  ∀ (payload : Bytes) (holdsPayload transmitOk : Bool) (s : State),
    (s.fault = true → transmitPath payload holdsPayload transmitOk s = none) ∧
    (s.fault = false → payload.length ≤ 2 ^ 32 - 21 →
      (s.allocator = [] → transmitPath payload holdsPayload transmitOk s = none) ∧
      (∀ rest, s.allocator = .granted :: rest → s.Serialized →
        ∃ t, transmitPath payload holdsPayload transmitOk s = some (t,
          [.transmit (assemble s.cfg.dstCall (s.cfg.dstId.setWidth 8) s.cfg.srcCall
            (s.cfg.srcId.setWidth 8) payload)] ++
          (if transmitOk then [] else [.notify .transmissionFailed]) ++ [.release .frame])) ∧
      (∀ rest, s.allocator = .failed :: rest →
        ∃ t, transmitPath payload holdsPayload transmitOk s = some (t,
          (if holdsPayload then [.release .payload] else []) ++ [.report 0x01]))) ∧
    (s.fault = false → 2 ^ 32 - 21 < payload.length →
      transmitPath payload holdsPayload transmitOk s = some
        ({ s with outputs := s.outputs ++ [.response [0x07]] },
          (if holdsPayload then [.release .payload] else []) ++ [.report 0x07]))

/-- R222, R226: on the receive path the adapter hands the response's fields over exactly when PARSE
answers OK, and in every case releases the original buffer exactly once; a raw frame too long for a
descriptor is answered IllegalCommand (R68, R74), and with the fault mark set there are no acts (R30).
That the adapter is a function around the block is the model's choice (log entry 13), as is the answer to
a frame of which no descriptor exists. -/
def Obligations.AdapterReceivePath : Prop :=
  ∀ (raw : Bytes) (s : State),
    (s.fault = true → receivePath raw s = none) ∧
    (s.fault = false → ∃ (t : State) (response : Bytes), t.responses = s.responses ++ [response] ∧
      (raw.length ≤ 2 ^ 32 - 1 → exec (.parse (some raw)) s = .next t) ∧
      (2 ^ 32 - 1 < raw.length → response = [0x07]) ∧
      ((∃ fields, response = 0x00 :: fields ∧
          receivePath raw s = some (t, [.handOver fields, .release .received])) ∨
        (response.head? ≠ some 0x00 ∧ receivePath raw s = some (t, [.release .received]))))
end

