-- ==== Sys2Proof/Laws/Adapter.lean ====
section
/-! SUPPORT. Everything a command issued by the adapter can be. -/

namespace Sys2Proof.Machine

/-- A faulted block takes no command (R30); a command no descriptor expresses is answered IllegalCommand
(R74); any other runs. -/
theorem issue_cases (i : Instr) (s : State) :
    (s.fault = true ∧ issue i s = .fault .contractViolation) ∨
    (s.fault = false ∧ i.wf = true ∧ issue i s = exec i s) ∨
    (s.fault = false ∧ i.wf = false ∧ issue i s = .next (s.raise .illegalCommand)) := by
  unfold issue
  cases s.fault <;> cases i.wf <;> simp

end Sys2Proof.Machine
end

