-- ==== Sys2Proof/Laws/State.lean ====
section
/-! SUPPORT. What every update of the state does to every field, and how the three output histories
grow. -/

namespace Sys2Proof.Machine

@[simp] theorem State.emit_cfg (s : State) (o : Output) : (s.emit o).cfg = s.cfg := rfl
@[simp] theorem State.emit_opt (s : State) (o : Output) : (s.emit o).opt = s.opt := rfl
@[simp] theorem State.emit_fault (s : State) (o : Output) : (s.emit o).fault = s.fault := rfl
@[simp] theorem State.emit_port (s : State) (o : Output) : (s.emit o).port = s.port := rfl
@[simp] theorem State.emit_allocator (s : State) (o : Output) :
    (s.emit o).allocator = s.allocator := rfl
@[simp] theorem State.emit_outputs (s : State) (o : Output) :
    (s.emit o).outputs = s.outputs ++ [o] := rfl
@[simp] theorem State.emit_draws (s : State) (o : Output) : (s.emit o).draws = s.draws := rfl

@[simp] theorem State.answerOk_cfg (s : State) (fields : Bytes) :
    (s.answerOk fields).cfg = s.cfg := rfl
@[simp] theorem State.answerOk_opt (s : State) (fields : Bytes) :
    (s.answerOk fields).opt = s.opt := rfl
@[simp] theorem State.answerOk_fault (s : State) (fields : Bytes) :
    (s.answerOk fields).fault = s.fault := rfl
@[simp] theorem State.answerOk_port (s : State) (fields : Bytes) :
    (s.answerOk fields).port = s.port := rfl
@[simp] theorem State.answerOk_allocator (s : State) (fields : Bytes) :
    (s.answerOk fields).allocator = s.allocator := rfl
@[simp] theorem State.answerOk_outputs (s : State) (fields : Bytes) :
    (s.answerOk fields).outputs = s.outputs ++ [.response (0x00 :: fields)] := rfl
@[simp] theorem State.answerOk_draws (s : State) (fields : Bytes) :
    (s.answerOk fields).draws = s.draws := rfl

@[simp] theorem State.raise_cfg (s : State) (st : Status) : (s.raise st).cfg = s.cfg := rfl
@[simp] theorem State.raise_opt (s : State) (st : Status) : (s.raise st).opt = s.opt := rfl
@[simp] theorem State.raise_fault (s : State) (st : Status) : (s.raise st).fault = s.fault := rfl
@[simp] theorem State.raise_port (s : State) (st : Status) : (s.raise st).port = s.port := rfl
@[simp] theorem State.raise_allocator (s : State) (st : Status) :
    (s.raise st).allocator = s.allocator := rfl
@[simp] theorem State.raise_outputs (s : State) (st : Status) :
    (s.raise st).outputs = s.outputs ++ [.response [st.code]] := rfl
@[simp] theorem State.raise_draws (s : State) (st : Status) : (s.raise st).draws = s.draws := rfl

@[simp] theorem State.notify_cfg (s : State) (k : EventKind) : (s.notify k).cfg = s.cfg := rfl
@[simp] theorem State.notify_opt (s : State) (k : EventKind) : (s.notify k).opt = s.opt := rfl
@[simp] theorem State.notify_fault (s : State) (k : EventKind) : (s.notify k).fault = s.fault := rfl
@[simp] theorem State.notify_port (s : State) (k : EventKind) : (s.notify k).port = s.port := rfl
@[simp] theorem State.notify_allocator (s : State) (k : EventKind) :
    (s.notify k).allocator = s.allocator := rfl
@[simp] theorem State.notify_outputs (s : State) (k : EventKind) :
    (s.notify k).outputs = s.outputs ++ [.event k (Config.eventDetails s.draws)] := rfl
@[simp] theorem State.notify_draws (s : State) (k : EventKind) :
    (s.notify k).draws = s.draws + 1 := rfl

@[simp] theorem State.popPort_cfg (s : State) : (s.popPort).cfg = s.cfg := rfl
@[simp] theorem State.popPort_opt (s : State) : (s.popPort).opt = s.opt := rfl
@[simp] theorem State.popPort_fault (s : State) : (s.popPort).fault = s.fault := rfl
@[simp] theorem State.popPort_port (s : State) : (s.popPort).port = s.port.tail := rfl
@[simp] theorem State.popPort_allocator (s : State) : (s.popPort).allocator = s.allocator := rfl
@[simp] theorem State.popPort_outputs (s : State) : (s.popPort).outputs = s.outputs := rfl
@[simp] theorem State.popPort_draws (s : State) : (s.popPort).draws = s.draws := rfl

@[simp] theorem State.markFault_cfg (s : State) : (s.markFault).cfg = s.cfg := rfl
@[simp] theorem State.markFault_opt (s : State) : (s.markFault).opt = s.opt := rfl
@[simp] theorem State.markFault_fault (s : State) : (s.markFault).fault = true := rfl
@[simp] theorem State.markFault_port (s : State) : (s.markFault).port = s.port := rfl
@[simp] theorem State.markFault_allocator (s : State) : (s.markFault).allocator = s.allocator := rfl
@[simp] theorem State.markFault_outputs (s : State) : (s.markFault).outputs = s.outputs := rfl
@[simp] theorem State.markFault_draws (s : State) : (s.markFault).draws = s.draws := rfl

@[simp] theorem State.takeReset_cfg (s : State) : (s.takeReset).cfg = StationConfig.reset := rfl
@[simp] theorem State.takeReset_opt (s : State) : (s.takeReset).opt = optReset := rfl
@[simp] theorem State.takeReset_fault (s : State) : (s.takeReset).fault = false := rfl
@[simp] theorem State.takeReset_port (s : State) : (s.takeReset).port = s.port := rfl
@[simp] theorem State.takeReset_allocator (s : State) : (s.takeReset).allocator = s.allocator := rfl
@[simp] theorem State.takeReset_outputs (s : State) : (s.takeReset).outputs = [] := rfl
@[simp] theorem State.takeReset_draws (s : State) : (s.takeReset).draws = s.draws := rfl

@[simp] theorem State.deliver_cfg (s : State) (d : Bytes) : (s.deliver d).cfg = s.cfg := rfl
@[simp] theorem State.deliver_opt (s : State) (d : Bytes) : (s.deliver d).opt = s.opt := rfl
@[simp] theorem State.deliver_fault (s : State) (d : Bytes) : (s.deliver d).fault = s.fault := rfl
@[simp] theorem State.deliver_port (s : State) (d : Bytes) :
    (s.deliver d).port = .command d Race.serialized :: s.port := rfl
@[simp] theorem State.deliver_allocator (s : State) (d : Bytes) :
    (s.deliver d).allocator = if s.allocator = [] then [.granted] else s.allocator := rfl
@[simp] theorem State.deliver_outputs (s : State) (d : Bytes) :
    (s.deliver d).outputs = s.outputs := rfl
@[simp] theorem State.deliver_draws (s : State) (d : Bytes) : (s.deliver d).draws = s.draws := rfl

/-! The histories are read off the outputs, so one output more is at most one entry more. -/

theorem State.events_congr {s t : State} (h : t.outputs = s.outputs) : t.events = s.events := by
  simp [State.events, h]

theorem State.responses_congr {s t : State} (h : t.outputs = s.outputs) : t.responses = s.responses := by
  simp [State.responses, h]

theorem State.requests_congr {s t : State} (h : t.outputs = s.outputs) : t.requests = s.requests := by
  simp [State.requests, h]

@[simp] theorem State.events_emit_request (s : State) (n : Nat) :
    (s.emit (.request n)).events = s.events := by
  simp [State.events]

@[simp] theorem State.responses_emit_request (s : State) (n : Nat) :
    (s.emit (.request n)).responses = s.responses := by
  simp [State.responses]

@[simp] theorem State.requests_emit_request (s : State) (n : Nat) :
    (s.emit (.request n)).requests = s.requests ++ [n] := by
  simp [State.requests]

@[simp] theorem State.events_emit_event (s : State) (k : EventKind) (d : Bytes) :
    (s.emit (.event k d)).events = s.events ++ [(k, d)] := by
  simp [State.events]

@[simp] theorem State.responses_emit_event (s : State) (k : EventKind) (d : Bytes) :
    (s.emit (.event k d)).responses = s.responses := by
  simp [State.responses]

@[simp] theorem State.requests_emit_event (s : State) (k : EventKind) (d : Bytes) :
    (s.emit (.event k d)).requests = s.requests := by
  simp [State.requests]

@[simp] theorem State.events_emit_response (s : State) (r : Bytes) :
    (s.emit (.response r)).events = s.events := by
  simp [State.events]

@[simp] theorem State.responses_emit_response (s : State) (r : Bytes) :
    (s.emit (.response r)).responses = s.responses ++ [r] := by
  simp [State.responses]

@[simp] theorem State.requests_emit_response (s : State) (r : Bytes) :
    (s.emit (.response r)).requests = s.requests := by
  simp [State.requests]

@[simp] theorem State.events_answerOk (s : State) (fields : Bytes) :
    (s.answerOk fields).events = s.events := by
  simp [State.events]

@[simp] theorem State.responses_answerOk (s : State) (fields : Bytes) :
    (s.answerOk fields).responses = s.responses ++ [0x00 :: fields] := by
  simp [State.responses]

@[simp] theorem State.requests_answerOk (s : State) (fields : Bytes) :
    (s.answerOk fields).requests = s.requests := by
  simp [State.requests]

@[simp] theorem State.events_raise (s : State) (st : Status) :
    (s.raise st).events = s.events := by
  simp [State.events]

@[simp] theorem State.responses_raise (s : State) (st : Status) :
    (s.raise st).responses = s.responses ++ [[st.code]] := by
  simp [State.responses]

@[simp] theorem State.requests_raise (s : State) (st : Status) :
    (s.raise st).requests = s.requests := by
  simp [State.requests]

@[simp] theorem State.events_notify (s : State) (k : EventKind) :
    (s.notify k).events = s.events ++ [(k, Config.eventDetails s.draws)] := by
  simp [State.events]

@[simp] theorem State.responses_notify (s : State) (k : EventKind) :
    (s.notify k).responses = s.responses := by
  simp [State.responses]

@[simp] theorem State.requests_notify (s : State) (k : EventKind) :
    (s.notify k).requests = s.requests := by
  simp [State.requests]

@[simp] theorem State.events_popPort (s : State) : (s.popPort).events = s.events := rfl
@[simp] theorem State.responses_popPort (s : State) : (s.popPort).responses = s.responses := rfl
@[simp] theorem State.requests_popPort (s : State) : (s.popPort).requests = s.requests := rfl
@[simp] theorem State.events_markFault (s : State) : (s.markFault).events = s.events := rfl
@[simp] theorem State.responses_markFault (s : State) : (s.markFault).responses = s.responses := rfl
@[simp] theorem State.requests_markFault (s : State) : (s.markFault).requests = s.requests := rfl

end Sys2Proof.Machine
end

