-- ==== Sys2Proof/Laws/Address.lean ====
section
/-! SUPPORT. The address codec's building blocks: padding, trimming, and decoding what was encoded. -/

namespace Sys2Proof.Machine

@[simp] theorem length_callsign6 (c : Bytes) : (callsign6 c).length = 6 := by
  simp [callsign6, Config.callLen]

@[simp] theorem length_addrEncode (c : Bytes) (id : Byte) (final : Bool) :
    (addrEncode c id final).length = 7 := by
  simp [addrEncode]

/-- Padding and truncation in one: the first six bytes, then as many spaces as are missing (R120). -/
theorem callsign6_eq_take (c : Bytes) :
    callsign6 c = c.take 6 ++ List.replicate (6 - c.length) space := by
  apply List.ext_getElem?
  intro k
  by_cases hk : k < 6
  · simp [callsign6, Config.callLen, hk, List.getElem?_append]
    by_cases hc : k < c.length
    · simp [hc]
    · rw [List.getElem?_eq_none (Nat.le_of_not_lt hc), if_neg (by omega), List.getElem?_replicate,
        if_pos (by rw [Nat.min_eq_right (by omega)]; omega)]
      rfl
  · simp [callsign6, Config.callLen, hk, List.getElem?_append]
    omega

/-- Trimming takes off spaces at the end, all of them, and nothing else (R124). -/
theorem trimSpaces_spec (c : Bytes) :
    ∃ n, c = trimSpaces c ++ List.replicate n space ∧ (trimSpaces c).getLast? ≠ some space := by
  refine ⟨(c.reverse.takeWhile (· == space)).length, ?_, ?_⟩
  · have spaces : c.reverse.takeWhile (· == space) =
        List.replicate (c.reverse.takeWhile (· == space)).length space := by
      rw [List.eq_replicate_iff]
      exact ⟨rfl, fun b hb => by simpa using List.mem_takeWhile_imp hb⟩
    have h := congrArg List.reverse
      (List.takeWhile_append_dropWhile (p := (· == space)) (l := c.reverse))
    rw [List.reverse_append, List.reverse_reverse, spaces, List.reverse_replicate] at h
    exact h.symm
  · simp only [trimSpaces, List.getLast?_reverse]
    have := List.head?_dropWhile_not (· == space) c.reverse
    intro h
    rw [h] at this
    simp at this

/-- What does not end in a space comes back from its padded form. -/
theorem trimSpaces_append_spaces (c : Bytes) (n : Nat) (h : c.getLast? ≠ some space) :
    trimSpaces (c ++ List.replicate n space) = c := by
  simp only [trimSpaces, List.reverse_append, List.reverse_replicate]
  rw [List.dropWhile_append_of_pos (by simp)]
  cases hc : c.reverse with
  | nil => simp at hc; simp [hc]
  | cons a l =>
    have : c = l.reverse ++ [a] := by rw [← List.reverse_reverse c, hc]; simp
    subst this
    simp at h
    simp [h]

/-- A 7-bit character survives the shift up and down. -/
theorem shift_up_down (b : Byte) (h : b < 0x80) : b <<< 1 >>> 1 = b := by revert b; decide

theorem fieldCall_addrEncode (c : Bytes) (id : Byte) (final : Bool) :
    fieldCall (addrEncode c id final) =
      trimSpaces ((callsign6 c).map fun b : Byte => b <<< 1 >>> 1) := by
  simp [fieldCall, addrEncode, callsign6, Config.callLen, Function.comp_def]

/-- The stored form of a callsign is its first six bytes. -/
theorem storedCall_eq_take (c : Bytes) : storedCall c = c.take 6 := by
  simp only [storedCall, Config.callLen]
  rw [List.take_eq_take_iff]
  omega

end Sys2Proof.Machine
end

