-- ==== Sys2Proof/Laws/Checksum.lean ====
section
/-! SUPPORT. The checksum's building blocks: one shift step is linear over XOR, and a 16-bit value is its
high and its low byte. -/

namespace Sys2Proof.Machine

theorem crcShift_xor (a b : U16) : crcShift (a ^^^ b) = crcShift a ^^^ crcShift b := by
  simp only [crcShift, BitVec.getLsbD_xor]
  cases a.getLsbD 0 <;> cases b.getLsbD 0 <;> simp [BitVec.ushiftRight_xor_distrib]
  · ac_rfl
  · ac_rfl
  · rw [show ∀ x y p : U16, x ^^^ p ^^^ (y ^^^ p) = x ^^^ y ^^^ (p ^^^ p) from
      fun x y p => by ac_rfl]
    simp

theorem crcShift8_xor (a b : U16) : crcShift8 (a ^^^ b) = crcShift8 a ^^^ crcShift8 b := by
  simp [crcShift8, crcShift_xor]

theorem setWidth_highByte (a : U16) : (highByte a).setWidth 16 = a >>> 8 := by
  simp only [highByte]
  ext i hi
  simp
  intro h
  have := BitVec.getLsbD_of_ge a (8 + i)
  by_contra hc
  simp at hc
  simp [this (by omega)] at h

/-- A 16-bit value is its high byte shifted up, together with its low byte. -/
theorem eq_highByte_xor_lowByte (a : U16) :
    a = ((highByte a).setWidth 16 <<< 8) ^^^ (lowByte a).setWidth 16 := by
  simp only [highByte, lowByte]
  ext i hi
  simp
  by_cases h : i < 8
  · simp [h, BitVec.getLsbD_eq_getElem, hi]
  · simp [h, show 8 + (i - 8) = i by omega, show i - 8 < 8 by omega, BitVec.getLsbD_eq_getElem, hi]

end Sys2Proof.Machine
end

