-- ==== Sys2Proof/Laws/Decode.lean ====
section
/-! SUPPORT. What each operand reader does: it reads back what the encoder wrote, and whatever it reads
is what the encoder would have written (spec/30_encoding.md R67). -/

namespace Sys2Proof

@[simp] theorem blobFits_iff (v : Bytes) : blobFits v = true ↔ v.length ≤ 4294967295 :=
  decide_eq_true_iff

@[simp] theorem infoFits_iff (v : Bytes) : infoFits v = true ↔ v.length ≤ 4294967275 :=
  decide_eq_true_iff

@[simp] theorem addr7Fits_iff (v : Bytes) : addr7Fits v = true ↔ v.length = 7 := decide_eq_true_iff

@[simp] theorem readU8_cons (b : Byte) (rest : Bytes) : readU8 (b :: rest) = .ok (b, rest) := rfl

@[simp] theorem readBool_boolByte (b : Bool) (rest : Bytes) :
    readBool (boolByte b :: rest) = .ok (b, rest) := by
  cases b <;> simp [readBool, boolByte]

theorem length_le32Bytes (n : Nat) : (le32Bytes n).length = 4 := rfl

@[simp] theorem length_blobBytes (v : Bytes) : (blobBytes v).length = 4 + v.length := by
  simp [blobBytes, length_le32Bytes]

/-- The length prefix of a blob that fits reads as its length. -/
theorem le32Value_ofNat (n : Nat) (h : n ≤ 4294967295) :
    le32Value (BitVec.ofNat 8 n) (BitVec.ofNat 8 (n / 0x100)) (BitVec.ofNat 8 (n / 0x10000))
      (BitVec.ofNat 8 (n / 0x1000000)) = n := by
  simp only [le32Value, BitVec.toNat_ofNat]
  omega

theorem le32Value_le (a b c d : Byte) : le32Value a b c d ≤ 4294967295 := by
  have := a.isLt; have := b.isLt; have := c.isLt; have := d.isLt
  simp only [le32Value]
  omega

/-- The four bytes of a length are the only ones that read as it. -/
theorem le32Bytes_le32Value (a b c d : Byte) : le32Bytes (le32Value a b c d) = [a, b, c, d] := by
  have ha := a.isLt; have hb := b.isLt; have hc := c.isLt; have hd := d.isLt
  simp only [le32Bytes, le32Value, List.cons.injEq, and_true]
  refine ⟨?_, ?_, ?_, ?_⟩ <;>
    · apply BitVec.eq_of_toNat_eq
      simp only [BitVec.toNat_ofNat]
      omega

theorem readBlob_blobBytes (v rest : Bytes) (h : v.length ≤ 4294967295) :
    readBlob (blobBytes v ++ rest) = .ok (v, rest) := by
  simp [blobBytes, le32Bytes, readBlob, le32Value_ofNat v.length h]

theorem readInfo_blobBytes (v rest : Bytes) (h : v.length ≤ 4294967275) :
    readInfo (blobBytes v ++ rest) = .ok (v, rest) := by
  simp [readInfo, readBlob_blobBytes v rest (by omega), h]

/-- An `info` operand over MAX_INFO_LEN is refused once read (R68, R72). -/
theorem readInfo_too_long (v rest : Bytes) (h : 4294967275 < v.length)
    (hb : v.length ≤ 4294967295) : readInfo (blobBytes v ++ rest) = .error .infoTooLong := by
  have hf : ¬ infoFits v = true := by simpa using h
  simp only [readInfo, readBlob_blobBytes v rest hb, hf, if_false, Bool.false_eq_true]

theorem readAddr7_append (f rest : Bytes) (h : f.length = 7) :
    readAddr7 (f ++ rest) = .ok (f, rest) := by
  have h' : Config.addrLen = f.length := h.symm
  simp [readAddr7, h']

theorem readOpts_optsByte (v s : Bool) (rest : Bytes) :
    readOpts (optsByte v s :: rest) = .ok ((v, s), rest) := by
  cases v <;> cases s <;> simp [readOpts, optsByte, boolByte]

theorem readU8_eq_ok {d rest : Bytes} {b : Byte} (h : readU8 d = .ok (b, rest)) : d = b :: rest := by
  cases d <;> simp_all [readU8]

theorem readBool_eq_ok {d rest : Bytes} {b : Bool} (h : readBool d = .ok (b, rest)) :
    d = boolByte b :: rest := by
  cases d with
  | nil => simp [readBool] at h
  | cons x xs =>
    simp only [readBool] at h
    split at h
    · simp_all [boolByte]
    · split at h
      · simp_all [boolByte]
      · cases h

theorem readBlob_eq_ok {d v rest : Bytes} (h : readBlob d = .ok (v, rest)) :
    d = blobBytes v ++ rest ∧ v.length ≤ 4294967295 := by
  unfold readBlob at h
  split at h
  · next b0 b1 b2 b3 r =>
    split at h
    · next hle =>
      simp only [Except.ok.injEq, Prod.mk.injEq] at h
      obtain ⟨rfl, rfl⟩ := h
      have hlen : (r.take (le32Value b0 b1 b2 b3)).length = le32Value b0 b1 b2 b3 := by
        simpa using hle
      simp [blobBytes, hlen, le32Bytes_le32Value, le32Value_le]
    · cases h
  · cases h

theorem readInfo_eq_ok {d v rest : Bytes} (h : readInfo d = .ok (v, rest)) :
    d = blobBytes v ++ rest ∧ v.length ≤ 4294967275 := by
  unfold readInfo at h
  split at h
  · cases h
  · next hb =>
    split at h
    · next hf =>
      simp only [Except.ok.injEq, Prod.mk.injEq] at h
      obtain ⟨rfl, rfl⟩ := h
      exact ⟨(readBlob_eq_ok hb).1, by simpa using hf⟩
    · cases h

theorem readAddr7_eq_ok {d f rest : Bytes} (h : readAddr7 d = .ok (f, rest)) :
    d = f ++ rest ∧ f.length = 7 := by
  unfold readAddr7 at h
  split at h
  · simp only [Except.ok.injEq, Prod.mk.injEq] at h
    obtain ⟨rfl, rfl⟩ := h
    simp only [Config.addrLen] at *
    simp; omega
  · cases h

theorem optsByte_getLsbD (b : Byte) (h : b &&& 0xFC = 0) :
    optsByte (b.getLsbD 0) (b.getLsbD 1) = b := by
  revert b; decide

theorem readOpts_eq_ok {d rest : Bytes} {o : Bool × Bool} (h : readOpts d = .ok (o, rest)) :
    d = optsByte o.1 o.2 :: rest := by
  cases d with
  | nil => simp [readOpts] at h
  | cons x xs =>
    simp only [readOpts] at h
    split at h
    · next hx =>
      simp only [Except.ok.injEq, Prod.mk.injEq] at h
      obtain ⟨rfl, rfl⟩ := h
      exact congrArg (· :: xs) (optsByte_getLsbD x hx).symm
    · cases h

end Sys2Proof
end

