-- ==== Sys2Proof/Laws/Ops.lean ====
section
/-! SUPPORT. Everything the shared operations can do: buffer writes, the allocator port, and the
command port. -/

namespace Sys2Proof.Machine

/-- A write inside the buffer keeps its length (R41). -/
theorem length_memWrite (buf : Bytes) (k : Nat) (v : Bytes) (h : k + v.length ≤ buf.length) :
    (memWrite buf k v).length = buf.length := by
  simp [memWrite]; omega

/-- A write just behind what is already written. -/
theorem memWrite_append (a b v : Bytes) (k : Nat) (h : k = a.length) :
    memWrite (a ++ b) k v = a ++ v ++ b.drop v.length := by
  subst h
  simp [memWrite, List.drop_append]

/-- A slice of what stands between two parts. -/
theorem slice_append_middle (a m b : Bytes) (i j : Nat) (hi : i = a.length)
    (hj : j = a.length + m.length) : slice (a ++ m ++ b) i j = m := by
  subst hi hj
  simp [slice]

@[simp] theorem length_freshBuffer (draw size : Nat) : (freshBuffer draw size).length = size := by
  simp [freshBuffer]

@[simp] theorem lowByte_u16OfBytes (lo hi : Byte) : lowByte (u16OfBytes lo hi) = lo := by
  simp only [lowByte, u16OfBytes]
  ext i hi'
  simp

@[simp] theorem highByte_u16OfBytes (lo hi : Byte) : highByte (u16OfBytes lo hi) = hi := by
  simp only [highByte, u16OfBytes]
  ext i hi'
  simp [show 8 + i < 16 by omega, show i < 16 by omega, hi', BitVec.getLsbD_eq_getElem]

/-- The three things a request to the allocator can come to (R221, R239). -/
theorem State.alloc_cases (s : State) (n : Nat) :
    (s.allocator = [] ∧ s.alloc n = .silent) ∨
    (∃ rest, s.allocator = .failed :: rest ∧
      s.alloc n = .failed { s.emit (.request n) with allocator := rest }) ∨
    (∃ rest, s.allocator = .granted :: rest ∧
      s.alloc n = .granted (freshBuffer s.draws n)
        { s.emit (.request n) with allocator := rest, draws := s.draws + 1 }) := by
  unfold State.alloc
  rcases s.allocator with _ | ⟨a, rest⟩
  · simp
  · cases a <;> simp

/-- Everything a step that goes on can be: idle, a reset, a contract violation marked, a descriptor
refused, or a command run. -/
theorem runPort_eq_next {run : Instr → State → Host.Outcome State Fault Refusal} {s t : State}
    (h : runPort run s = .next t) :
    (s.port = [] ∧ s.fault = false ∧ t = s) ∨
    (∃ later, s.port = .reset :: later ∧ t = s.takeReset.popPort) ∨
    (∃ later, s.port = .absentOperand :: later ∧ s.fault = false ∧ t = s.markFault.popPort) ∨
    (∃ d race later, s.port = .command d race :: later ∧ s.fault = false ∧
      (((decode d).toOption = none ∧ t = (s.raise .illegalCommand).popPort) ∨
      ∃ i u, decode d = .ok i ∧ run i s = .next u ∧ t = u.popPort)) := by
  unfold runPort at h
  split at h
  · split at h
    · cases h
    · simp_all
  · simp_all
  · split at h
    · cases h
    · simp_all
  · next d race later hp =>
    split at h
    · cases h
    · next hf =>
      refine .inr (.inr (.inr ⟨d, race, later, hp, by simpa using hf, ?_⟩))
      split at h
      · next e he =>
        cases h
        exact .inl ⟨by simp [he, Except.toOption], rfl⟩
      · next i hi =>
        unfold runCommand at h
        split at h
        · next u hu =>
          cases h
          exact .inr ⟨i, u, hi, hu, rfl⟩
        · cases h
        · cases h

end Sys2Proof.Machine
end

