-- ==== Sys2Proof/Laws/Frame.lean ====
section
/-! SUPPORT. Everything building a frame and parsing one can do, and the reads of a torn snapshot. -/

namespace Sys2Proof.Machine

@[simp] theorem length_frameBody (dc : Bytes) (di : Byte) (sc : Bytes) (si : Byte) (info : Bytes) :
    (frameBody dc di sc si info).length = 16 + info.length := by
  simp [frameBody]; omega

/-- After the body is written the buffer holds it behind the flag, and the rest is as granted. -/
theorem writeBody_eq (buf dc : Bytes) (di : Byte) (sc : Bytes) (si : Byte) (info : Bytes) :
    writeBody buf dc di sc si info =
      [Config.flag] ++ frameBody dc di sc si info ++ buf.drop (17 + info.length) := by
  have h := memWrite_append [] buf [Config.flag] 0 rfl
  simp only [List.nil_append] at h
  unfold writeBody
  rw [h, memWrite_append _ _ _ 1 (by simp), memWrite_append _ _ _ 8 (by simp),
    memWrite_append _ _ _ 15 (by simp), memWrite_append _ _ _ 16 (by simp),
    memWrite_append _ _ _ 17 (by simp)]
  simp [frameBody, List.drop_drop]

/-- Everything a build that goes on can be: a failed allocation, or a frame (R144, R146). -/
theorem buildFrame_eq_next {dc : Bytes} {di : Byte} {sc : Bytes} {si : Byte} {info : Bytes}
    {s t : State} (h : buildFrame dc di sc si info s = .next t) :
    (∃ rest, s.allocator = .failed :: rest ∧
      t = (({ s.emit (.request (20 + info.length)) with allocator := rest }.notify
        .allocationFailed).raise .allocationFailure)) ∨
    (∃ rest, s.allocator = .granted :: rest ∧
      t = (({ s.emit (.request (20 + info.length)) with
          allocator := rest, draws := s.draws + 1 }.notify .frameBuilt).answerOk
        (blobBytes (writeFrame (freshBuffer s.draws (20 + info.length)) dc di sc si info)))) := by
  unfold buildFrame at h
  rcases s.alloc_cases (Config.frameOverhead + info.length) with
    ⟨_, ha⟩ | ⟨rest, hr, ha⟩ | ⟨rest, hr, ha⟩
  · rw [ha] at h; cases h
  · rw [ha] at h; cases h; exact .inl ⟨rest, hr, rfl⟩
  · rw [ha] at h; cases h; exact .inr ⟨rest, hr, rfl⟩

/-- Everything PARSE can be (R160). -/
theorem execParse_cases (frame : Option Bytes) (s : State) :
    (frame = none ∧ execParse frame s = .next (s.raise .invalidInput)) ∨
    (∃ f st, frame = some f ∧ parseFrame s.opt f = .error st ∧
      execParse frame s = .next (s.raise st)) ∨
    (∃ f p, frame = some f ∧ parseFrame s.opt f = .ok p ∧
      execParse frame s = .next ((s.notify .frameReceived).answerOk (parsedFields p))) := by
  cases frame with
  | none => exact .inl ⟨rfl, rfl⟩
  | some f =>
    cases h : parseFrame s.opt f with
    | error st => exact .inr (.inl ⟨f, st, rfl, h, by simp only [execParse, h]⟩)
    | ok p => exact .inr (.inr ⟨f, p, rfl, h, by simp only [execParse, h]⟩)

theorem frameByte_eq_getElem? (f : Bytes) (k : Nat) (h : k < f.length) :
    f[k]? = some (frameByte f k) := by
  simp only [frameByte, List.getD_eq_getElem?_getD]
  rw [List.getElem?_eq_getElem h]
  rfl

/-- A frame of at least one byte is framed exactly when it begins and ends with the flag (R162). -/
theorem framed_iff (f : Bytes) (h : f ≠ []) :
    framed f = true ↔ f.head? = some Config.flag ∧ f.getLast? = some Config.flag := by
  have hl : 0 < f.length := List.length_pos_iff.2 h
  rw [List.head?_eq_getElem?, List.getLast?_eq_getElem?, frameByte_eq_getElem? f 0 hl,
    frameByte_eq_getElem? f (f.length - 1) (by omega)]
  simp [framed]

/-- Control and PID of a frame long enough to have them (R165). -/
theorem fixedControlPid_iff (f : Bytes) (h : 17 ≤ f.length) :
    fixedControlPid f = true ↔ f[15]? = some Config.ctrlUi ∧ f[16]? = some Config.pidNoL3 := by
  rw [frameByte_eq_getElem? f 15 (by omega), frameByte_eq_getElem? f 16 (by omega)]
  simp [fixedControlPid]

/-- A torn read is the value before, or one that was written (R52). -/
theorem tornRead_mem {α : Type} (before : α) (writes : List α) (pick : Nat) :
    tornRead before writes pick ∈ before :: writes := by
  simp only [tornRead, List.getD_eq_getElem?_getD]
  cases h : (before :: writes)[pick]? with
  | none => simp
  | some v => simpa using List.mem_of_getElem? h

/-- Some draw gives each of those values. -/
theorem exists_tornRead_eq {α : Type} (before : α) (writes : List α) (v : α)
    (h : v ∈ before :: writes) : ∃ pick, tornRead before writes pick = v := by
  obtain ⟨k, hk⟩ := List.mem_iff_getElem?.1 h
  exact ⟨k, by simp [tornRead, List.getD_eq_getElem?_getD, hk]⟩

/-- A serialized BUILDCFG reads the registers as they are. -/
theorem snapshot_of_serialized (s : State) (h : s.Serialized) : s.snapshot = s.cfg := by
  have none_overlap : s.overlapping = [] := by
    simp only [State.Serialized] at h
    simp [State.overlapping, h, commandsBeforeStop]
  have torn_nil : ∀ {α : Type} (x : α) (k : Nat), tornRead x [] k = x := by
    intro α x k
    cases k <;> simp [tornRead]
  cases hc : s.cfg
  simp [State.snapshot, none_overlap, hc, torn_nil]

end Sys2Proof.Machine
end

