-- ==== Sys2Proof/Laws/PerInstr.lean ====
section
/-! SUPPORT. Statements about every command as syntax, one lemma per constructor. The family
`EncodeLength`: the descriptor of a command a descriptor can express has the length R71's table gives
it. -/

namespace Sys2Proof.Laws.EncodeLength

/-- R71: the descriptor has the length the table of signatures gives. -/
def Statement (i : Instr) : Prop := i.wf = true → (encode i).length = i.descriptorLength

theorem crc16 (data : Bytes) : Statement (.crc16 data) := by
  intro _; simp [encode, Instr.operandBytes, Instr.descriptorLength]; omega

theorem addrenc (call : Bytes) (id : Byte) (final : Bool) : Statement (.addrenc call id final) := by
  intro _; simp [encode, Instr.operandBytes, Instr.descriptorLength]; omega

theorem addrdec (field : Bytes) : Statement (.addrdec field) := by
  intro h
  have hlen : field.length = 7 := of_decide_eq_true h
  simp [encode, Instr.operandBytes, Instr.descriptorLength, hlen]

theorem build (dcall : Bytes) (did : Byte) (scall : Bytes) (sid : Byte) (info : Bytes) :
    Statement (.build dcall did scall sid info) := by
  intro _; simp [encode, Instr.operandBytes, Instr.descriptorLength]; omega

theorem buildcfg (info : Bytes) : Statement (.buildcfg info) := by
  intro _; simp [encode, Instr.operandBytes, Instr.descriptorLength]; omega

theorem parse (frame : Option Bytes) : Statement (.parse frame) := by
  intro _
  cases frame <;> simp [encode, Instr.operandBytes, Instr.descriptorLength]
  omega

theorem setsrc (call : Bytes) (id : Byte) : Statement (.setsrc call id) := by
  intro _; simp [encode, Instr.operandBytes, Instr.descriptorLength]; omega

theorem setdst (call : Bytes) (id : Byte) : Statement (.setdst call id) := by
  intro _; simp [encode, Instr.operandBytes, Instr.descriptorLength]; omega

theorem setopt (verify strict : Bool) : Statement (.setopt verify strict) := by
  intro _; simp [encode, Instr.operandBytes, Instr.descriptorLength]

end Sys2Proof.Laws.EncodeLength
end

