-- ==== Sys2Proof/Machine/Assembler.lean ====
section
/-! DEFINITION. The assembler syntax of spec/30_encoding.md R79: the literal forms, one line per command,
reading a line of text, and the descriptor an assembler writes for it. There are no pseudo-instructions
(R80). The block itself never sees text. -/

namespace Sys2Proof.Machine

/-- The forms of a `<bytes>` literal (R79). -/
inductive BytesLit where
  /-- an ASCII string in double quotes, no terminator -/
  | ascii (chars : List Char)
  /-- a hex list -/
  | hex (bytes : Bytes)
  /-- `rep(x, n)`: n copies of x -/
  | rep (x : Byte) (n : Nat)
  /-- `++` -/
  | append (a b : BytesLit)
  deriving DecidableEq, Repr

/-- A line of assembler (R79). -/
inductive AsmLine where
  | crc16 (data : BytesLit)
  | addrenc (call : BytesLit) (id : Byte) (final : Bool)
  | addrdec (field : BytesLit)
  | build (dcall : BytesLit) (did : Byte) (scall : BytesLit) (sid : Byte) (info : BytesLit)
  | buildcfg (info : BytesLit)
  | parse (frame : BytesLit)
  | parseNone
  | setsrc (call : BytesLit) (id : Byte)
  | setdst (call : BytesLit) (id : Byte)
  | setopt (verify strict : Bool)
  deriving DecidableEq, Repr

/-- The byte sequence a literal stands for (R13, R79). -/
def BytesLit.value : BytesLit → Bytes
  | .ascii chars => chars.map fun c => BitVec.ofNat 8 c.toNat
  | .hex bytes => bytes
  | .rep x n => List.replicate n x
  | .append a b => a.value ++ b.value

/-- The command a line stands for: each mnemonic is exactly one opcode (R79, R80). -/
def AsmLine.command : AsmLine → Instr
  | .crc16 data => .crc16 data.value
  | .addrenc call id final => .addrenc call.value id final
  | .addrdec field => .addrdec field.value
  | .build dcall did scall sid info => .build dcall.value did scall.value sid info.value
  | .buildcfg info => .buildcfg info.value
  | .parse frame => .parse (some frame.value)
  | .parseNone => .parse none
  | .setsrc call id => .setsrc call.value id
  | .setdst call id => .setdst call.value id
  | .setopt verify strict => .setopt verify strict

/-- The descriptor an assembler writes for a line, if its operands fit (a `<bytes7>` is exactly 7
bytes, R79). -/
def AsmLine.descriptor (l : AsmLine) : Option Bytes :=
  if l.command.wf then some (encode l.command) else none

/-! ## Reading the text of a line -/

/-- What a line is made of. -/
inductive AsmToken where
  /-- a mnemonic, a number or a name -/
  | word (chars : List Char)
  /-- a string in double quotes -/
  | text (chars : List Char)
  /-- the inside of `h"..."` -/
  | hexText (chars : List Char)
  | comma
  | openParen
  | closeParen
  | equals
  | append
  deriving DecidableEq, Repr

/-- Where the reader stands in a line; the characters of an open token, last one first. -/
inductive LexMode where
  | between
  | inWord (acc : List Char)
  | inText (acc : List Char)
  | inHex (acc : List Char)
  | afterPlus
  deriving DecidableEq, Repr

/-- A character of a mnemonic, a number or a name. -/
def isWordChar (c : Char) : Bool :=
  ('0' ≤ c && c ≤ '9') || ('A' ≤ c && c ≤ 'Z') || ('a' ≤ c && c ≤ 'z')

/-- The words of a line up to its comment (R79: a line may end with a `; comment`). -/
def lexLine : LexMode → List Char → Option (List AsmToken)
  | .between, [] => some []
  | .inWord acc, [] => some [.word acc.reverse]
  | .inText _, [] => none
  | .inHex _, [] => none
  | .afterPlus, [] => none
  | .inText acc, c :: rest =>
    if c = '"' then (lexLine .between rest).map (.text acc.reverse :: ·)
    else lexLine (.inText (c :: acc)) rest
  | .inHex acc, c :: rest =>
    if c = '"' then (lexLine .between rest).map (.hexText acc.reverse :: ·)
    else lexLine (.inHex (c :: acc)) rest
  | .afterPlus, c :: rest =>
    if c = '+' then (lexLine .between rest).map (.append :: ·) else none
  | .inWord acc, c :: rest =>
    if isWordChar c then lexLine (.inWord (c :: acc)) rest
    else if c = '"' then if acc = ['h'] then lexLine (.inHex []) rest else none
    else if c = ';' then some [.word acc.reverse]
    else if c = '+' then (lexLine .afterPlus rest).map (.word acc.reverse :: ·)
    else if c = ' ' then (lexLine .between rest).map (.word acc.reverse :: ·)
    else if c = ',' then (lexLine .between rest).map ([.word acc.reverse, .comma] ++ ·)
    else if c = '(' then (lexLine .between rest).map ([.word acc.reverse, .openParen] ++ ·)
    else if c = ')' then (lexLine .between rest).map ([.word acc.reverse, .closeParen] ++ ·)
    else if c = '=' then (lexLine .between rest).map ([.word acc.reverse, .equals] ++ ·)
    else none
  | .between, c :: rest =>
    if isWordChar c then lexLine (.inWord [c]) rest
    else if c = '"' then lexLine (.inText []) rest
    else if c = ';' then some []
    else if c = '+' then lexLine .afterPlus rest
    else if c = ' ' then lexLine .between rest
    else if c = ',' then (lexLine .between rest).map (.comma :: ·)
    else if c = '(' then (lexLine .between rest).map (.openParen :: ·)
    else if c = ')' then (lexLine .between rest).map (.closeParen :: ·)
    else if c = '=' then (lexLine .between rest).map (.equals :: ·)
    else none

/-- The value of a hexadecimal digit. -/
def hexDigit (c : Char) : Option Nat :=
  if '0' ≤ c && c ≤ '9' then some (c.toNat - '0'.toNat)
  else if 'A' ≤ c && c ≤ 'F' then some (c.toNat - 'A'.toNat + 10)
  else if 'a' ≤ c && c ≤ 'f' then some (c.toNat - 'a'.toNat + 10)
  else none

/-- Digits in a base, most significant first, after a value already read. -/
def digitsValue (base : Nat) : Nat → List Char → Option Nat
  | v, [] => some v
  | v, c :: rest =>
    match hexDigit c with
    | some d => if d < base then digitsValue base (base * v + d) rest else none
    | none => none

/-- A decimal or `0x` number (R79). -/
def numberValue : List Char → Option Nat
  | [] => none
  | ['0', 'x'] => none
  | '0' :: 'x' :: rest => digitsValue 16 0 rest
  | chars => digitsValue 10 0 chars

/-- A `<u8>`: a number 0 to 255 (R79). -/
def u8Value (chars : List Char) : Option Byte :=
  match numberValue chars with
  | some n => if n < 256 then some (BitVec.ofNat 8 n) else none
  | none => none

/-- A `<bool>`: 0 or 1, or an alias (R79). -/
def boolValue (chars : List Char) : Option Bool :=
  if chars = ['0'] ∨ chars = ['f', 'a', 'l', 's', 'e'] then some false
  else if chars = ['1'] ∨ chars = ['t', 'r', 'u', 'e'] then some true
  else none

/-- An option's value in SETOPT: 0 or 1 (R79). -/
def bitValue (chars : List Char) : Option Bool :=
  if chars = ['0'] then some false else if chars = ['1'] then some true else none

/-- The bytes of a hex list: pairs of digits, spaces between them (R79). -/
def hexListBytes : List Char → Option Bytes
  | [] => some []
  | ' ' :: rest => hexListBytes rest
  | [_] => none
  | a :: b :: rest =>
    match hexDigit a, hexDigit b, hexListBytes rest with
    | some x, some y, some bytes => some (BitVec.ofNat 8 (16 * x + y) :: bytes)
    | _, _, _ => none

/-- One literal without `++`, and the tokens after it. -/
def readLiteral : List AsmToken → Option (BytesLit × List AsmToken)
  | .text chars :: rest =>
    if chars.all fun c => decide (c.toNat < 128) then some (.ascii chars, rest) else none
  | .hexText chars :: rest => (hexListBytes chars).map fun bytes => (.hex bytes, rest)
  | .word ['r', 'e', 'p'] :: .openParen :: .word x :: .comma :: .word n :: .closeParen :: rest =>
    match u8Value x, numberValue n with
    | some b, some k => some (.rep b k, rest)
    | _, _ => none
  | _ => none

/-- A `<bytes>`: literals joined by `++` (R79). The first argument bounds how many. -/
def readBytes : Nat → List AsmToken → Option (BytesLit × List AsmToken)
  | 0, _ => none
  | fuel + 1, ts =>
    match readLiteral ts with
    | some (a, .append :: rest) =>
      (readBytes fuel rest).map fun p => (.append a p.1, p.2)
    | r => r

/-- The operands of a line, separated by commas. -/
inductive AsmOperand where
  | bytes (b : BytesLit)
  | word (chars : List Char)
  | setting (name value : List Char)
  deriving DecidableEq, Repr

/-- One operand, and the tokens after it. -/
def readOperand (ts : List AsmToken) : Option (AsmOperand × List AsmToken) :=
  match readBytes ts.length ts with
  | some (b, rest) => some (.bytes b, rest)
  | none =>
    match ts with
    | .word name :: .equals :: .word value :: rest => some (.setting name value, rest)
    | .word chars :: rest => some (.word chars, rest)
    | _ => none

/-- The operands of a line. The first argument bounds how many. -/
def readOperandList : Nat → List AsmToken → Option (List AsmOperand)
  | 0, _ => none
  | fuel + 1, ts =>
    match readOperand ts with
    | some (o, []) => some [o]
    | some (o, .comma :: rest) => (readOperandList fuel rest).map (o :: ·)
    | _ => none

/-- The line a mnemonic and its operands make (R79, R80). -/
def lineOf (mnemonic : String) (operands : List AsmOperand) : Option AsmLine :=
  match mnemonic, operands with
  | "CRC16", [.bytes data] => some (.crc16 data)
  | "ADDRENC", [.bytes call, .word id, .word final] =>
    match u8Value id, boolValue final with
    | some i, some f => some (.addrenc call i f)
    | _, _ => none
  | "ADDRDEC", [.bytes field] => some (.addrdec field)
  | "BUILD", [.bytes dcall, .word did, .bytes scall, .word sid, .bytes info] =>
    match u8Value did, u8Value sid with
    | some d, some s => some (.build dcall d scall s info)
    | _, _ => none
  | "BUILDCFG", [.bytes info] => some (.buildcfg info)
  | "PARSE", [.bytes frame] => some (.parse frame)
  | "PARSE", [.word ['n', 'o', 'n', 'e']] => some .parseNone
  | "SETSRC", [.bytes call, .word id] => (u8Value id).map (.setsrc call)
  | "SETDST", [.bytes call, .word id] => (u8Value id).map (.setdst call)
  | "SETOPT", [.setting name v, .setting name' s] =>
    if name = ['v', 'e', 'r', 'i', 'f', 'y'] ∧ name' = ['s', 't', 'r', 'i', 'c', 't'] then
      match bitValue v, bitValue s with
      | some v, some s => some (.setopt v s)
      | _, _ => none
    else none
  | _, _ => none

/-- The line of assembler a text stands for (R79). -/
def readLine (chars : List Char) : Option AsmLine :=
  match lexLine .between chars with
  | some (.word mnemonic :: ts) =>
    match readOperandList ts.length ts with
    | some operands => lineOf (String.ofList mnemonic) operands
    | none => none
  | _ => none

/-- The descriptor of a line of text (R79, R81). -/
def assembleLine (chars : List Char) : Option Bytes :=
  match readLine chars with
  | some l => l.descriptor
  | none => none

end Sys2Proof.Machine
end

