-- ==== Sys2Proof/Tests/Slice0.lean ====
section
/-! SUPPORT. The model's own tests. Expected bytes are those of spec/95_test_vectors.md and R81 unless a
comment says otherwise; `test_witness_<Name>` meets all the hypotheses of the statement of that name
together. -/

namespace Sys2Proof.Tests

open Sys2Proof.Machine

/-! ## Helpers -/

/-- The reset state with one serialized command at the port and the given allocator answers. -/
def given (d : Bytes) (answers : List AllocAnswer) : State :=
  { State.reset with port := [.command d Race.serialized], allocator := answers }

/-- `given`, with another option register. -/
def givenOpt (opt : Byte) (d : Bytes) : State := { given d [] with opt := opt }

def respOf : Host.Outcome State Fault Refusal → Option (List Bytes)
  | .next t => some t.responses
  | _ => none

def kindsOf : Host.Outcome State Fault Refusal → Option (List EventKind)
  | .next t => some (t.events.map Prod.fst)
  | _ => none

def cfgOf : Host.Outcome State Fault Refusal → Option StationConfig
  | .next t => some t.cfg
  | _ => none

def optOf : Host.Outcome State Fault Refusal → Option Byte
  | .next t => some t.opt
  | _ => none

def faultOf : Host.Outcome State Fault Refusal → Option Fault
  | .fault f => some f
  | _ => none

/-- "CQ" -/
def cq : Bytes := [0x43, 0x51]
/-- "N0CALL" -/
def n0call : Bytes := [0x4E, 0x30, 0x43, 0x41, 0x4C, 0x4C]
/-- The N = 0 frame of spec/95_test_vectors.md section 4. -/
def f0 : Bytes :=
  [0x7E, 0x86, 0xA2, 0x40, 0x40, 0x40, 0x40, 0x60, 0x9C, 0x60, 0x86, 0x82, 0x98, 0x98, 0x61, 0x03,
    0xF0, 0x9F, 0x84, 0x7E]
/-- The frame FC of V-P10: control 13, checksum recomputed. -/
def fc : Bytes :=
  [0x7E, 0x86, 0xA2, 0x40, 0x40, 0x40, 0x40, 0x60, 0x9C, 0x60, 0x86, 0x82, 0x98, 0x98, 0x61, 0x13,
    0xF0, 0x0E, 0x11, 0x7E]
/-- F0 with byte 17 = 9E (V-P7). -/
def fb : Bytes := f0.set 17 0x9E

/-! ## WellFormed: one ill-formed term for each check, which the check refuses -/

theorem test_wf_blob_too_long : (Instr.crc16 (List.replicate 4294967296 0)).wf = false := by
  simp [Instr.wf, blobFits, Config.maxBlob, -List.reduceReplicate]

theorem test_wf_info_too_long : (Instr.buildcfg (List.replicate 4294967276 0)).wf = false := by
  simp [Instr.wf, infoFits, Config.maxInfoLen, -List.reduceReplicate]

theorem test_wf_addr7_short : (Instr.addrdec [0x86, 0xA2, 0x40]).wf = false := by decide

/-! ## Decode: for every constructor a descriptor written out from R67, R70 and R71 -/

theorem test_decode_crc16 :
    decode [0x01, 0x09, 0x00, 0x00, 0x00, 0x31, 0x32, 0x33, 0x34, 0x35, 0x36, 0x37, 0x38, 0x39] =
      .ok (.crc16 [0x31, 0x32, 0x33, 0x34, 0x35, 0x36, 0x37, 0x38, 0x39]) := by decide

theorem test_decode_addrenc :
    decode [0x02, 0x06, 0x00, 0x00, 0x00, 0x4E, 0x30, 0x43, 0x41, 0x4C, 0x4C, 0x07, 0x01] =
      .ok (.addrenc n0call 7 true) := by decide

theorem test_decode_addrdec :
    decode [0x03, 0x86, 0xA2, 0x40, 0x40, 0x40, 0x40, 0x60] =
      .ok (.addrdec [0x86, 0xA2, 0x40, 0x40, 0x40, 0x40, 0x60]) := by decide

theorem test_decode_build :
    decode [0x04, 0x04, 0x00, 0x00, 0x00, 0x41, 0x50, 0x52, 0x53, 0x00, 0x06, 0x00, 0x00, 0x00,
      0x4E, 0x30, 0x43, 0x41, 0x4C, 0x4C, 0x07, 0x01, 0x00, 0x00, 0x00, 0x7E] =
      .ok (.build [0x41, 0x50, 0x52, 0x53] 0 n0call 7 [0x7E]) := by decide

theorem test_decode_buildcfg :
    decode [0x05, 0x02, 0x00, 0x00, 0x00, 0x48, 0x69] = .ok (.buildcfg [0x48, 0x69]) := by decide

theorem test_decode_parse :
    decode ([0x06, 0x01, 0x14, 0x00, 0x00, 0x00] ++ f0) = .ok (.parse (some f0)) := by decide

theorem test_decode_setsrc :
    decode [0x07, 0x06, 0x00, 0x00, 0x00, 0x4E, 0x30, 0x43, 0x41, 0x4C, 0x4C, 0x00] =
      .ok (.setsrc n0call 0) := by decide

theorem test_decode_setdst :
    decode [0x08, 0x02, 0x00, 0x00, 0x00, 0x43, 0x51, 0x00] = .ok (.setdst cq 0) := by decide

theorem test_decode_setopt : decode [0x09, 0x02] = .ok (.setopt false true) := by decide

/-- Each clause of R74, by its name. -/
theorem test_decode_malformed :
    decode [] = .error .empty ∧ decode [0x0A] = .error .reservedOpcode ∧
    decode [0x01, 0x05, 0x00, 0x00, 0x00, 0x31] = .error .endsInside ∧
    decode [0x09, 0x01, 0x00] = .error .trailingBytes ∧ decode [0x06, 0x02] = .error .notBool ∧
    decode [0x09, 0x04] = .error .reservedOptsBit := by decide

/-- A length prefix is little-endian (R67): 0x0100 bytes are asked for, and one is there. -/
theorem test_decode_length_is_little_endian :
    decode [0x01, 0x00, 0x01, 0x00, 0x00, 0x55] = .error .endsInside := by decide

/-- The nine rows of spec/opcode_table.json, their operands of zeros. -/
theorem test_decode_table_words :
    decodeTableWord 8 0x01 = some (.crc16 []) ∧ decodeTableWord 8 0x02 = some (.addrenc [] 0 false) ∧
    decodeTableWord 8 0x03 = some (.addrdec [0, 0, 0, 0, 0, 0, 0]) ∧
    decodeTableWord 8 0x04 = some (.build [] 0 [] 0 []) ∧ decodeTableWord 8 0x05 = some (.buildcfg []) ∧
    decodeTableWord 8 0x06 = some (.parse none) ∧ decodeTableWord 8 0x07 = some (.setsrc [] 0) ∧
    decodeTableWord 8 0x08 = some (.setdst [] 0) ∧ decodeTableWord 8 0x09 = some (.setopt false false) ∧
    decodeTableWord 8 0x0A = none ∧ decodeTableWord 8 0x00 = none := by decide

/-- A placed word runs as the next step: BUILD of nothing answers OK at once. -/
theorem test_fetch_word_runs :
    (respOf (step (State.reset.withFetchWord 8 0x04))).isSome = true ∧
    kindsOf (step (State.reset.withFetchWord 8 0x04)) = some [.frameBuilt] ∧
    respOf (step (State.reset.withFetchWord 16 0x0209)) = some [[0x00]] ∧
    optOf (step (State.reset.withFetchWord 16 0x0209)) = some 0x02 := by decide +kernel

/-- R79's forms, R81's descriptors: what the assembler writes for a line of text. -/
theorem test_assembler_lines :
    assembleLine "SETSRC \"N0CALL\", 0".toList =
      some [0x07, 0x06, 0x00, 0x00, 0x00, 0x4E, 0x30, 0x43, 0x41, 0x4C, 0x4C, 0x00] ∧
    assembleLine "SETOPT verify=1, strict=0 ; options".toList = some [0x09, 0x01] ∧
    assembleLine "ADDRDEC h\"86 A2 40 40 40 40 60\"".toList =
      some [0x03, 0x86, 0xA2, 0x40, 0x40, 0x40, 0x40, 0x60] ∧
    assembleLine "PARSE none".toList = some [0x06, 0x00] ∧
    assembleLine "CRC16 \"A\" ++ rep(0xAA, 2)".toList =
      some [0x01, 0x03, 0x00, 0x00, 0x00, 0x41, 0xAA, 0xAA] := by decide +kernel

/-- R79: a field of one byte, an id past 255 and a string left open are no lines. -/
theorem test_assembler_refuses :
    assembleLine "ADDRDEC h\"86\"".toList = none ∧
    assembleLine "SETSRC \"CQ\", 256".toList = none ∧
    assembleLine "CRC16 \"A".toList = none := by decide +kernel

/-- R225: the transport fails; then the allocator does. The frame is that of test_buildcfg_from_reset. -/
theorem test_transmit_path :
    (transmitPath [0x48, 0x69] true false (given [] [.granted])).map Prod.snd =
      some [.transmit [0x7E, 0x86, 0xA2, 0x40, 0x40, 0x40, 0x40, 0x60, 0x9C, 0x60, 0x86, 0x82, 0x98, 0x98,
        0x61, 0x03, 0xF0, 0x48, 0x69, 0x9F, 0x21, 0x7E], .notify .transmissionFailed, .release .frame] ∧
    (transmitPath [0x48, 0x69] true true (given [] [.failed])).map Prod.snd =
      some [.release .payload, .report 0x01] := by decide +kernel

/-- R224's table of event codes. -/
theorem test_event_codes :
    [EventKind.frameBuilt, .frameReceived, .allocationFailed, .transmissionFailed].map EventKind.code =
      [0x01, 0x02, 0x03, 0x04] := by decide

/-- R226: a short frame is released too. -/
theorem test_receive_path :
    (receivePath [0x7E] State.reset).map Prod.snd = some [.release .received] := by decide +kernel

/-! ## One step each, from the vectors of spec/95_test_vectors.md -/

theorem test_crc16_check_value :
    respOf (exec (.crc16 [0x31, 0x32, 0x33, 0x34, 0x35, 0x36, 0x37, 0x38, 0x39]) State.reset) =
      some [[0x00, 0x6E, 0x90]] := by decide +kernel

theorem test_crc16_all_ones :
    respOf (exec (.crc16 [0xFF, 0xFF]) State.reset) = some [[0x00, 0xFF, 0xFF]] ∧
    respOf (exec (.crc16 [0xFF]) State.reset) = some [[0x00, 0x00, 0xFF]] := by decide +kernel

theorem test_addrenc_truncates :
    respOf (exec (.addrenc [0x41, 0x42, 0x43, 0x44, 0x45, 0x46, 0x47, 0x48] 15 true) State.reset) =
      some [[0x00, 0x82, 0x84, 0x86, 0x88, 0x8A, 0x8C, 0x7F]] := by decide +kernel

theorem test_addrenc_drops_bit7 :
    respOf (exec (.addrenc [0x80, 0xFF] 5 false) State.reset) =
      some [[0x00, 0x00, 0xFE, 0x40, 0x40, 0x40, 0x40, 0x6A]] := by decide +kernel

theorem test_addrdec_trims_only_trailing_spaces :
    respOf (exec (.addrdec [0x40, 0x86, 0x40, 0x40, 0x40, 0x40, 0x60]) State.reset) =
      some [[0x00, 0x02, 0x00, 0x00, 0x00, 0x20, 0x43, 0x00]] := by decide +kernel

theorem test_addrdec_keeps_zero_bytes :
    respOf (exec (.addrdec [0, 0, 0, 0, 0, 0, 0]) State.reset) =
      some [[0x00, 0x06, 0x00, 0x00, 0x00, 0, 0, 0, 0, 0, 0, 0]] ∧
    respOf (exec (.addrdec [0x40, 0x40, 0x40, 0x40, 0x40, 0x40, 0xFF]) State.reset) =
      some [[0x00, 0x00, 0x00, 0x00, 0x00, 0x0F]] := by decide +kernel

theorem test_build_flag_in_info :
    respOf (exec (.build [0x41, 0x50, 0x52, 0x53] 0 n0call 7 [0x7E]) (given [] [.granted])) =
      some [[0x00, 0x15, 0x00, 0x00, 0x00, 0x7E, 0x82, 0xA0, 0xA4, 0xA6, 0x40, 0x40, 0x60, 0x9C, 0x60,
        0x86, 0x82, 0x98, 0x98, 0x6F, 0x03, 0xF0, 0x7E, 0xF0, 0x53, 0x7E]] := by decide +kernel

theorem test_build_truncates_and_masks :
    respOf (exec (.build [0x54, 0x4F, 0x4F, 0x4C, 0x4F, 0x4E, 0x47, 0x43, 0x41, 0x4C, 0x4C] 20 [] 0 [])
      (given [] [.granted])) =
      some [[0x00, 0x14, 0x00, 0x00, 0x00, 0x7E, 0xA8, 0x9E, 0x9E, 0x98, 0x9E, 0x9C, 0x68, 0x40, 0x40,
        0x40, 0x40, 0x40, 0x40, 0x61, 0x03, 0xF0, 0xB3, 0xD4, 0x7E]] := by decide +kernel

theorem test_buildcfg_from_reset :
    respOf (step (given [0x05, 0x02, 0x00, 0x00, 0x00, 0x48, 0x69] [.granted])) =
      some [[0x00, 0x16, 0x00, 0x00, 0x00, 0x7E, 0x86, 0xA2, 0x40, 0x40, 0x40, 0x40, 0x60, 0x9C, 0x60,
        0x86, 0x82, 0x98, 0x98, 0x61, 0x03, 0xF0, 0x48, 0x69, 0x9F, 0x21, 0x7E]] := by decide +kernel

/-- P4 step 1. -/
theorem test_buildcfg_allocation_failed :
    respOf (step (given [0x05, 0x02, 0x00, 0x00, 0x00, 0x48, 0x69] [.failed])) = some [[0x01]] ∧
    kindsOf (step (given [0x05, 0x02, 0x00, 0x00, 0x00, 0x48, 0x69] [.failed])) =
      some [.allocationFailed] := by decide +kernel

/-- V-P2, V-P3, V-P5, V-P7, V-P9 and V-P11. -/
theorem test_parse_errors :
    respOf (step (givenOpt 0x01 [0x06, 0x00])) = some [[0x02]] ∧
    respOf (step (givenOpt 0x01 [0x06, 0x01, 0x00, 0x00, 0x00, 0x00])) = some [[0x03]] ∧
    respOf (exec (.parse (some (f0.set 0 0x7F))) (givenOpt 0x01 [])) = some [[0x04]] ∧
    respOf (exec (.parse (some fb)) (givenOpt 0x01 [])) = some [[0x05]] ∧
    respOf (exec (.parse (some (f0.set 15 0x13))) (givenOpt 0x03 [])) = some [[0x05]] ∧
    respOf (exec (.parse (some fc)) (givenOpt 0x03 [])) = some [[0x06]] := by decide +kernel

/-- V-P15: twenty flag bytes, both options off; V-P10: control not checked. -/
theorem test_parse_accepts :
    respOf (exec (.parse (some (List.replicate 20 0x7E))) (givenOpt 0x00 [])) =
      some [[0x00, 0x06, 0x00, 0x00, 0x00, 0x3F, 0x3F, 0x3F, 0x3F, 0x3F, 0x3F, 0x0F, 0x06, 0x00, 0x00,
        0x00, 0x3F, 0x3F, 0x3F, 0x3F, 0x3F, 0x3F, 0x0F, 0x00, 0x00, 0x00, 0x00]] ∧
    respOf (exec (.parse (some fc)) (givenOpt 0x01 [])) =
      some [[0x00, 0x02, 0x00, 0x00, 0x00, 0x43, 0x51, 0x00, 0x06, 0x00, 0x00, 0x00, 0x4E, 0x30, 0x43,
        0x41, 0x4C, 0x4C, 0x00, 0x00, 0x00, 0x00, 0x00]] ∧
    kindsOf (exec (.parse (some fc)) (givenOpt 0x01 [])) = some [.frameReceived] := by decide +kernel

/-- Section 6: SETSRC "TOOLONGCALL",20. -/
theorem test_setsrc_truncates :
    cfgOf (step (given [0x07, 0x0B, 0x00, 0x00, 0x00, 0x54, 0x4F, 0x4F, 0x4C, 0x4F, 0x4E, 0x47, 0x43,
      0x41, 0x4C, 0x4C, 0x14] [])) =
      some { srcCall := [0x54, 0x4F, 0x4F, 0x4C, 0x4F, 0x4E], srcId := 4, dstCall := cq, dstId := 0 } := by
  decide +kernel

theorem test_setdst_writes_destination :
    cfgOf (step (given [0x08, 0x04, 0x00, 0x00, 0x00, 0x41, 0x50, 0x52, 0x53, 0x09] [])) =
      some { srcCall := n0call, srcId := 0, dstCall := [0x41, 0x50, 0x52, 0x53], dstId := 9 } := by
  decide +kernel

theorem test_setopt_bits :
    optOf (step (given [0x09, 0x02] [])) = some 0x02 ∧ optOf (step (given [0x09, 0x03] [])) = some 0x03 ∧
    optOf (step (given [0x09, 0x04] [])) = some 0x01 ∧
    respOf (step (given [0x09, 0x04] [])) = some [[0x07]] := by decide +kernel

/-- R52: SETSRC "AB1CD",5 overlaps BUILDCFG, which reads the new callsign and the old id: the source
field is that of P1's frame with the SSID byte of id 0. -/
theorem test_torn_read_mixes_old_and_new :
    respOf (step { State.reset with
      allocator := [.granted]
      port := [.command [0x05, 0x00, 0x00, 0x00, 0x00]
          { overlap := 1, srcCall := 1, srcId := 0, dstCall := 0, dstId := 0 },
        .command [0x07, 0x05, 0x00, 0x00, 0x00, 0x41, 0x42, 0x31, 0x43, 0x44, 0x05] Race.serialized] }) =
    respOf (exec (.build cq 0 [0x41, 0x42, 0x31, 0x43, 0x44] 0 []) (given [] [.granted])) := by
  decide +kernel

/-- R30: a setter behind an absent operand is never performed, and BUILDCFG cannot read it. -/
theorem test_no_overlap_behind_absent_operand :
    respOf (step { State.reset with
      allocator := [.granted]
      port := [.command [0x05, 0x00, 0x00, 0x00, 0x00]
          { overlap := 2, srcCall := 1, srcId := 1, dstCall := 0, dstId := 0 },
        .absentOperand,
        .command [0x07, 0x05, 0x00, 0x00, 0x00, 0x41, 0x42, 0x31, 0x43, 0x44, 0x05] Race.serialized] }) =
    respOf (exec (.build cq 0 n0call 0 []) (given [] [.granted])) := by
  decide +kernel

/-- R239, R30, R230. -/
theorem test_stops_and_reset :
    faultOf (step (given [0x05, 0x00, 0x00, 0x00, 0x00] [])) = some .allocatorSilent ∧
    faultOf (step { given [0x09, 0x00] [] with fault := true }) = some .contractViolation ∧
    optOf (step { State.reset with opt := 0x02, fault := true, port := [.reset] }) = some 0x01 := by
  decide +kernel

/-! ## Witnesses: every statement with hypotheses has a state and operands that meet them -/

/-- A state with a command, its race and an input behind it. -/
def waiting (d : Bytes) : State :=
  { State.reset with port := [.command d Race.serialized, .reset] }

theorem test_witness_DecodeOfEncode :
    (Instr.addrdec [0, 0, 0, 0, 0, 0, 0]).wf = true ∧ (Instr.build cq 255 [] 0 [0x7E]).wf = true := by
  decide

theorem test_witness_EncodeOfDecode : decode [0x09, 0x03] = .ok (.setopt true true) := by decide

theorem test_witness_MalformedDescriptorsRefused :
    ((Instr.setopt true true).wf = true ∧ 1 < (encode (Instr.setopt true true)).length) ∧
    (cq.length ≤ 4294967295 ∧ (0x02 : Byte) ≠ 0 ∧ (0x02 : Byte) ≠ 1) ∧ (0x04 : Byte) &&& 0xFC ≠ 0 := by
  decide

theorem test_witness_MalformedDescriptorsRefused_info :
    4294967275 < (List.replicate 4294967276 (0 : Byte)).length ∧
    (List.replicate 4294967276 (0 : Byte)).length ≤ 4294967295 := by simp [-List.reduceReplicate]

theorem test_witness_ReservedOpcodesRefused :
    ((0x0A : Byte) = 0x00 ∨ (0x0A : Byte) ≤ 0x0A) ∧ ((0x00 : Byte) = 0x00 ∨ (0x0A : Byte) ≤ 0x00) ∧
    (waiting [0x0A, 0x01]).port = .command (0x0A :: [0x01]) Race.serialized :: [.reset] ∧
    (waiting [0x0A, 0x01]).fault = false := by decide

theorem test_witness_MalformedCommandChangesNothing :
    (decode [0x06, 0x02]).toOption = none ∧
    (waiting [0x06, 0x02]).port = .command [0x06, 0x02] Race.serialized :: [.reset] ∧
    (waiting [0x06, 0x02]).fault = false := by decide

theorem test_witness_AddressFieldFixedBits :
    (addrEncode cq 0 false)[5]? = some 0x40 ∧ (addrEncode cq 0 false)[6]? = some 0x60 ∧
    (addrEncode cq 255 true)[6]? = some 0x7F := by decide

theorem test_witness_AddressFieldDecoding :
    ([0x40, 0x40, 0x40, 0x40, 0x40, 0x40, 0xFF] : Bytes).length = 7 := by decide

theorem test_witness_AddressRoundTrip_call : RoundTripCall n0call ∧ (15 : Byte) ≤ 15 := by
  refine ⟨⟨by decide, by decide⟩, by decide⟩

theorem test_witness_AddressRoundTrip_long :
    6 < (List.replicate 7 (0x7E : Byte)).length ∧
    ∀ b ∈ List.replicate 7 (0x7E : Byte), 0x21 ≤ b ∧ b ≤ 0x7E := by decide

theorem test_witness_AddressRoundTrip_fails :
    ([0x41, 0x20] : Bytes).getLast? = some 0x20 ∧ (∃ b ∈ ([0x80] : Bytes), 0x80 ≤ b) ∧
    6 < (List.replicate 7 (0x41 : Byte)).length := by decide

theorem test_witness_AddressPaddingAndTruncation :
    cq.length ≤ 2 ∧ cq.length < 6 ∧ (∀ b ∈ cq, b < 0x80) ∧ cq.getLast? ≠ some 0x20 ∧
    6 < (List.replicate 7 (0x41 : Byte)).length := by decide

theorem test_witness_AddrdecCommand : ([0, 0, 0, 0, 0, 0, 0] : Bytes).length = 7 := by decide

theorem test_witness_WrittenBufferIsAssembledFrame :
    (List.replicate 22 (0xA5 : Byte)).length = 20 + ([0x48, 0x69] : Bytes).length := by decide

theorem test_witness_BuildGranted : (given [] [.granted, .failed]).allocator = .granted :: [.failed] := by
  decide

theorem test_witness_BuildAllocationFailed : (given [] [.failed]).allocator = .failed :: [] := by decide

theorem test_witness_BuildcfgGranted :
    State.Serialized (given [0x05, 0, 0, 0, 0] [.granted]) ∧
    (given [0x05, 0, 0, 0, 0] [.granted]).allocator = .granted :: [] := ⟨rfl, rfl⟩

theorem test_witness_BuildcfgAllocationFailed :
    (given [0x05, 0, 0, 0, 0] [.failed]).allocator = .failed :: [] := by decide

theorem test_witness_BuildcfgIsBuildOfRegisters : State.Serialized State.reset := rfl

/-- An overlapped state in which a register has two values to read. -/
def overlapped : State :=
  { State.reset with
    port := [.command [0x05, 0, 0, 0, 0] { Race.serialized with overlap := 1 },
      .command [0x07, 0x01, 0, 0, 0, 0x41, 0x05] Race.serialized] }

theorem test_witness_EveryTornReadIsAdmitted :
    overlapped.port = .command [0x05, 0, 0, 0, 0] { Race.serialized with overlap := 1 } ::
      [.command [0x07, 0x01, 0, 0, 0, 0x41, 0x05] Race.serialized] ∧
    cq ∈ overlapped.dstCallReads ∧ (0 : BitVec 4) ∈ overlapped.dstIdReads ∧
    [0x41] ∈ overlapped.srcCallReads ∧ (5 : BitVec 4) ∈ overlapped.srcIdReads := by decide

theorem test_witness_BuildIgnoresConfiguration :
    (respOf (exec (.build cq 0 n0call 0 []) (given [] [.granted]))).isSome = true ∧
    faultOf (exec (.build cq 0 n0call 0 []) (given [] [])) = some .allocatorSilent := by decide +kernel

theorem test_witness_EndToEndScenarioFrame :
    (given [] [.granted]).allocator = .granted :: [] ∧
    ([0x01, 0x50, 0x00, 0x01, 0x12, 0x34, 0x56, 0x78, 0x00, 0x00, 0x00, 0x2A, 0xAA, 0xAA, 0xAA, 0xAA,
      0xAA, 0xAA, 0xAA, 0xAA] : Bytes) =
      [0x01, 0x50, 0x00, 0x01, 0x12, 0x34, 0x56, 0x78, 0x00, 0x00, 0x00, 0x2A] ++
        List.replicate 8 0xAA := by decide

theorem test_witness_OnlySilentAllocatorStopsCommand :
    State.reset.allocator = [] ∧ (given [] [.failed]).allocator ≠ [] ∧
    (∀ dcall did scall sid info, Instr.crc16 [] ≠ .build dcall did scall sid info) ∧
    (∀ info, Instr.crc16 [] ≠ .buildcfg info) := by
  refine ⟨by decide, by decide, ?_, ?_⟩ <;> intros <;> exact Instr.noConfusion

/-- One frame for each clause; 19 and 20 bytes are the ends of the length clauses. -/
theorem test_witness_ParseErrorsInOrder :
    (f0.take 19).length < 20 ∧
    (20 ≤ (f0.set 0 0x7F).length ∧ (f0.set 0 0x7F).head? ≠ some 0x7E) ∧
    (20 ≤ (f0.set 19 0x00).length ∧ (f0.set 19 0x00).getLast? ≠ some 0x7E) ∧
    (20 ≤ fb.length ∧ fb.head? = some 0x7E ∧ fb.getLast? = some 0x7E ∧
      (givenOpt 0x01 []).opt.getLsbD 0 = true ∧
      crc16 ((fb.drop 1).take (fb.length - 4)) ≠ receivedCrc fb) ∧
    (20 ≤ fc.length ∧ fc.head? = some 0x7E ∧ fc.getLast? = some 0x7E ∧
      crc16 ((fc.drop 1).take (fc.length - 4)) = receivedCrc fc ∧
      (givenOpt 0x03 []).opt.getLsbD 1 = true ∧ fc[15]? ≠ some 0x03) ∧
    ((givenOpt 0x02 []).opt.getLsbD 0 = false ∧ (givenOpt 0x02 []).opt.getLsbD 1 = true ∧
      (f0.set 16 0x00)[16]? ≠ some 0xF0) := by decide +kernel

theorem test_witness_ParseAccepts :
    20 ≤ f0.length ∧ f0.head? = some 0x7E ∧ f0.getLast? = some 0x7E ∧
    ((givenOpt 0x03 []).opt.getLsbD 0 = true ∧
      crc16 ((f0.drop 1).take (f0.length - 4)) = receivedCrc f0) ∧
    ((givenOpt 0x03 []).opt.getLsbD 1 = true ∧ f0[15]? = some 0x03 ∧ f0[16]? = some 0xF0) := by
  decide +kernel

theorem test_witness_BuildParseRoundTrip :
    RoundTripCall cq ∧ RoundTripCall [] ∧ (15 : Byte) ≤ 15 ∧ (0 : Byte) ≤ 15 := by
  refine ⟨⟨by decide, by decide⟩, ⟨by decide, by simp⟩, by decide, by decide⟩

theorem test_witness_BuildParseRoundTrip_unchecked :
    20 ≤ fb.length ∧ fb.head? = some 0x7E ∧ fb.getLast? = some 0x7E ∧
    (givenOpt 0x00 []).opt.getLsbD 0 = false ∧ (givenOpt 0x00 []).opt.getLsbD 1 = false := by decide

theorem test_witness_DisabledChecksNeverReported :
    (respOf (exec (.parse (some fb)) (givenOpt 0x00 []))).isSome = true ∧
    (givenOpt 0x00 []).opt.getLsbD 0 = false ∧ (givenOpt 0x00 []).opt.getLsbD 1 = false := by
  decide +kernel

theorem test_witness_SetterSeenByNextBuildcfg :
    State.Serialized State.reset ∧ ∃ t u, exec (.setdst cq 255) State.reset = .next t ∧
      exec (.setsrc n0call 16) t = .next u := ⟨rfl, _, _, rfl, rfl⟩

theorem test_witness_SettersIdempotent :
    ((Instr.setopt true true).opcode = 0x07 ∨ (Instr.setopt true true).opcode = 0x08 ∨
      (Instr.setopt true true).opcode = 0x09) ∧
    ∃ t u, exec (.setopt true true) State.reset = .next t ∧ exec (.setopt true true) t = .next u :=
  ⟨by decide, _, _, rfl, rfl⟩

theorem test_witness_StepRunsDecodedCommand :
    (waiting [0x09, 0x03]).port = .command [0x09, 0x03] Race.serialized :: [.reset] ∧
    (waiting [0x09, 0x03]).fault = false ∧ decode [0x09, 0x03] = .ok (.setopt true true) ∧
    (respOf (exec (.setopt true true) (waiting [0x09, 0x03]))).isSome = true ∧
    faultOf (exec (.buildcfg []) (waiting [0x05, 0, 0, 0, 0])) = some .allocatorSilent := by decide

theorem test_witness_IdleKeepsState : State.reset.port = [] ∧ State.reset.fault = false := by decide

theorem test_witness_ContractViolationStops :
    ({ State.reset with port := [.absentOperand] } : State).port = .absentOperand :: [] ∧
    ({ State.reset with fault := true } : State).fault = true ∧
    ({ State.reset with fault := true } : State).port.head? ≠ some .reset ∧
    (respOf (exec (.parse none) State.reset)).isSome = true := by decide

theorem test_witness_ResetRestoresRegisters :
    ({ State.reset with fault := true, opt := 0x02, port := [.reset] } : State).port = .reset :: [] := by
  decide

theorem test_witness_StepKeepsRegistersFitting :
    State.Inv (waiting [0x09, 0x03]) ∧ ∃ t, step (waiting [0x09, 0x03]) = .next t :=
  ⟨⟨by decide, by decide, by decide⟩, _, rfl⟩

theorem test_witness_OneResponsePerCommand :
    (waiting [0x0A]).port = .command [0x0A] Race.serialized :: [.reset] ∧
    respOf (step (waiting [0x0A])) = some [[0x07]] := by decide

theorem test_witness_ErrorsWriteNoRegister :
    respOf (step (given [0x05, 0, 0, 0, 0] [.failed])) = some (State.reset.responses ++ [0x01 :: []]) ∧
    respOf (step (given [0x06, 0x00] [])) = some (State.reset.responses ++ [0x02 :: []]) ∧
    (0x01 : Byte) ≠ 0x00 ∧ (0x02 : Byte) ≠ 0x01 := by decide +kernel

theorem test_witness_OutputsOfOneCommand :
    (given [0x05, 0, 0, 0, 0] [.failed]).port = .command [0x05, 0, 0, 0, 0] Race.serialized :: [] ∧
    (respOf (step (given [0x05, 0, 0, 0, 0] [.failed]))).isSome = true := by decide +kernel

theorem test_witness_OnlySettersWriteRegisters :
    (respOf (exec (.setopt true true) State.reset)).isSome = true ∧
    (Instr.setopt true true).opcode ≠ 0x07 ∧ (Instr.setopt true true).opcode ≠ 0x08 ∧
    (Instr.setsrc [] 0).opcode ≠ 0x09 := by decide

theorem test_witness_OneAllocationPerBuild :
    (respOf (exec (.buildcfg [0x7E]) (given [] [.granted]))).isSome = true ∧
    (respOf (exec (.crc16 []) State.reset)).isSome = true := by decide +kernel

theorem test_witness_PureCommandsAnswerAlike :
    ((Instr.parse none).opcode = 0x06 ∧ (given [] []).opt = State.reset.opt) ∧
    (respOf (exec (.parse none) (given [] []))).isSome = true ∧
    (respOf (exec (.parse none) State.reset)).isSome = true ∧ (Instr.crc16 []).opcode = 0x01 := by decide

theorem test_witness_AddressingSeenOnlyByBuildcfg :
    (Instr.build cq 0 [] 0 []).opcode ≠ 0x05 ∧
    (respOf (exec (.build cq 0 [] 0 []) (given [] [.granted]))).isSome = true := by decide +kernel

/-- One state and payload for each clause; the payloads of 2^32 - 21 and 2^32 - 20 bytes are where the
two lengths meet. -/
theorem test_witness_AdapterTransmitPath :
    State.Serialized (given [] [.granted]) ∧ (given [] [.granted]).fault = false ∧
    (given [] [.granted]).allocator = .granted :: [] ∧
    (given [] [.failed]).allocator = .failed :: [] ∧ (given [] []).allocator = [] ∧
    { State.reset with fault := true }.fault = true ∧
    (List.replicate 4294967275 (0 : Byte)).length ≤ 2 ^ 32 - 21 ∧
    2 ^ 32 - 21 < (List.replicate 4294967276 (0 : Byte)).length := by
  refine ⟨rfl, rfl, rfl, rfl, rfl, rfl, ?_, ?_⟩ <;> rw [List.length_replicate] <;> decide

theorem test_witness_AdapterReceivePath :
    State.reset.fault = false ∧ { State.reset with fault := true }.fault = true ∧
    (List.replicate 4294967295 (0 : Byte)).length ≤ 2 ^ 32 - 1 ∧
    2 ^ 32 - 1 < (List.replicate 4294967296 (0 : Byte)).length := by
  refine ⟨rfl, rfl, ?_, ?_⟩ <;> rw [List.length_replicate] <;> decide

end Sys2Proof.Tests
end

section
/-! SUPPORT. What the command port does with its next input, by the input at its head; what a command
leaves in the registers and at the port; the invariant of the registers; the addressing a frame cannot
tell apart. -/

namespace Sys2Proof.Machine

/-! ### The command port, one equation per input at its head -/

section Port

variable {run : Instr → State → Host.Outcome State Fault Refusal} {s t : State} {i : Instr}
  {later : List HostInput}

theorem State.popPort_eq (hp : s.port.tail = later) : s.popPort = { s with port := later } := by
  rw [← hp]; rfl

/-- A faulted block takes nothing but a reset, with nothing waiting either (R30). -/
theorem runPort_of_fault (hf : s.fault = true) (hr : s.port.head? ≠ some .reset) :
    runPort run s = .fault .contractViolation := by
  unfold runPort
  split
  case h_1 => exact if_pos hf
  case h_2 hp => simp [hp] at hr
  case h_3 => exact if_pos hf
  case h_4 => exact if_pos hf

/-- An absent operand sets the fault mark and is gone from the port (R211). -/
theorem runPort_of_absentOperand (hp : s.port = .absentOperand :: later) (hf : s.fault = false) :
    runPort run s = .next s.markFault.popPort := by
  simp [runPort, hp, hf]

/-- A descriptor that decodes is run (R51, R72). -/
theorem runPort_of_decode {d : Bytes} {race : Race} (hp : s.port = .command d race :: later)
    (hf : s.fault = false) (hd : decode d = .ok i) : runPort run s = runCommand run i s := by
  simp [runPort, hp, hf, hd]

theorem runCommand_of_next (h : run i s = .next t) : runCommand run i s = .next t.popPort := by
  simp [runCommand, h]

theorem runCommand_of_fault {e : Fault} (h : run i s = .fault e) :
    runCommand run i s = .fault e := by
  simp [runCommand, h]

theorem runCommand_of_refused {r : Refusal} (h : run i s = .refused r) :
    runCommand run i s = .refused r := by
  simp [runCommand, h]

end Port

/-! ### The registers after a command -/

/-- The StationConfig registers after a command: the setters of R181 and R183 write their own half, and
no other command writes any of them (R24). Tied to the model by `exec_eq_next`. -/
def cfgAfter : Instr → StationConfig → StationConfig
  | .setsrc call id, cfg => { cfg with srcCall := storedCall call, srcId := maskId id }
  | .setdst call id, cfg => { cfg with dstCall := storedCall call, dstId := maskId id }
  | _, cfg => cfg

/-- The option register after a command: SETOPT alone writes it (R25, R184). Tied to the model by
`exec_eq_next`. -/
def optAfter : Instr → Byte → Byte
  | .setopt verify strict, _ => optsByte verify strict
  | _, opt => opt

theorem buildFrame_keeps {dc : Bytes} {di : Byte} {sc : Bytes} {si : Byte} {info : Bytes}
    {s t : State} (h : buildFrame dc di sc si info s = .next t) :
    SameRegisters s t ∧ t.port = s.port := by
  obtain ⟨rest, -, rfl⟩ | ⟨rest, -, rfl⟩ := buildFrame_eq_next h
  · exact ⟨⟨rfl, rfl, rfl⟩, rfl⟩
  · exact ⟨⟨rfl, rfl, rfl⟩, rfl⟩

theorem execParse_keeps {frame : Option Bytes} {s t : State} (h : execParse frame s = .next t) :
    SameRegisters s t ∧ t.port = s.port := by
  obtain ⟨-, hs⟩ | ⟨_, _, -, -, hs⟩ | ⟨_, _, -, -, hs⟩ := execParse_cases frame s <;>
    (rw [hs] at h; cases h; exact ⟨⟨rfl, rfl, rfl⟩, rfl⟩)

/-- What a command that goes on leaves in the registers and at the command port: the setters write their
registers, the fault mark and the waiting inputs stay. -/
theorem exec_eq_next {i : Instr} {s t : State} (h : exec i s = .next t) :
    t.cfg = cfgAfter i s.cfg ∧ t.opt = optAfter i s.opt ∧ t.fault = s.fault ∧ t.port = s.port := by
  cases i with
  | build | buildcfg =>
    obtain ⟨⟨hcfg, hopt, hfault⟩, hport⟩ := buildFrame_keeps h
    exact ⟨hcfg, hopt, hfault, hport⟩
  | parse =>
    obtain ⟨⟨hcfg, hopt, hfault⟩, hport⟩ := execParse_keeps h
    exact ⟨hcfg, hopt, hfault, hport⟩
  | crc16 | addrenc | addrdec | setsrc | setdst | setopt => cases h; exact ⟨rfl, rfl, rfl, rfl⟩

section
variable {i : Instr}

theorem cfgAfter_src (h : i.opcode ≠ 0x07) (cfg : StationConfig) :
    (cfgAfter i cfg).srcCall = cfg.srcCall ∧ (cfgAfter i cfg).srcId = cfg.srcId := by
  unfold cfgAfter
  split
  case h_1 => exact absurd rfl h
  case h_2 => exact ⟨rfl, rfl⟩
  case h_3 => exact ⟨rfl, rfl⟩

theorem cfgAfter_dst (h : i.opcode ≠ 0x08) (cfg : StationConfig) :
    (cfgAfter i cfg).dstCall = cfg.dstCall ∧ (cfgAfter i cfg).dstId = cfg.dstId := by
  unfold cfgAfter
  split
  case h_1 => exact ⟨rfl, rfl⟩
  case h_2 => exact absurd rfl h
  case h_3 => exact ⟨rfl, rfl⟩

theorem optAfter_of_ne (h : i.opcode ≠ 0x09) (opt : Byte) : optAfter i opt = opt := by
  unfold optAfter
  split
  case h_1 => exact absurd rfl h
  case h_2 => rfl

end

/-! ### The invariant of the registers -/

theorem length_storedCall_le (call : Bytes) : (storedCall call).length ≤ 6 := by
  rw [storedCall_eq_take]
  exact List.length_take_le 6 call

theorem optsByte_reserved (verify strict : Bool) : optsByte verify strict &&& 0xFC = 0 := by
  revert verify strict
  decide

/-- An option register that meets R25 has no bit set from bit 2 up. -/
theorem getLsbD_of_reserved {o : Byte} (h : o &&& 0xFC = 0) {k : Nat} (hk : 2 ≤ k) :
    o.getLsbD k = false := by
  have hlt : o.toNat < 2 ^ 2 := by
    revert o
    decide
  exact Nat.testBit_lt_two_pow (hlt.trans_le (Nat.pow_le_pow_right two_pos hk))

/-- The invariant speaks of the StationConfig registers and the option register alone. -/
theorem State.Inv.congr {s t : State} (hs : s.Inv) (hcfg : t.cfg = s.cfg) (hopt : t.opt = s.opt) :
    t.Inv where
  srcCallFits := hcfg ▸ hs.srcCallFits
  dstCallFits := hcfg ▸ hs.dstCallFits
  optReserved := hopt ▸ hs.optReserved

/-- R32: the reset values fit their registers. -/
theorem State.inv_reset : State.reset.Inv where
  srcCallFits := by decide
  dstCallFits := by decide
  optReserved := by decide

/-- What a setter stores fits its register, and every other register stays (R24, R25). -/
theorem exec_keeps_inv {i : Instr} {s t : State} (hs : s.Inv) (h : exec i s = .next t) : t.Inv := by
  obtain ⟨hcfg, hopt, -, -⟩ := exec_eq_next h
  cases i with
  | setsrc call id =>
    exact ⟨hcfg ▸ length_storedCall_le call, hcfg ▸ hs.dstCallFits, hopt ▸ hs.optReserved⟩
  | setdst call id =>
    exact ⟨hcfg ▸ hs.srcCallFits, hcfg ▸ length_storedCall_le call, hopt ▸ hs.optReserved⟩
  | setopt verify strict =>
    exact ⟨hcfg ▸ hs.srcCallFits, hcfg ▸ hs.dstCallFits, hopt ▸ optsByte_reserved verify strict⟩
  | crc16 | addrenc | addrdec | build | buildcfg | parse => exact hs.congr hcfg hopt

/-! ### The constant table -/

/-- Every entry of the listing is eight shift steps on its index (R100): a closed fact of 256 entries. -/
theorem crcTable_eq_crcShift8 : ∀ i : Byte, crcTable i = crcShift8 (i.setWidth 16) := by
  decide +kernel

/-! ### Addressing a frame cannot tell apart (R24, R121) -/

theorem callsign6_take (c : Bytes) : callsign6 (c.take 6) = callsign6 c := by
  rw [callsign6_eq_take, callsign6_eq_take, List.take_take, List.length_take]
  congr 2
  omega

theorem ssidByte_mask (id : Byte) (final : Bool) : ssidByte (id &&& 0xF) final = ssidByte id final := by
  unfold ssidByte
  rw [BitVec.and_assoc]
  rfl

/-- The address codec reads six callsign bytes and four id bits of its operands. -/
theorem addrEncode_take_mask (c : Bytes) (id : Byte) (final : Bool) :
    addrEncode (c.take 6) (id &&& 0xF) final = addrEncode c id final := by
  unfold addrEncode
  rw [callsign6_take, ssidByte_mask]

/-- So does the frame body, through which alone a frame depends on its addressing. -/
theorem writeBody_take_mask (buf dc : Bytes) (di : Byte) (sc : Bytes) (si : Byte) (info : Bytes) :
    writeBody buf (dc.take 6) (di &&& 0xF) (sc.take 6) (si &&& 0xF) info =
      writeBody buf dc di sc si info := by
  unfold writeBody
  rw [addrEncode_take_mask, addrEncode_take_mask]

theorem buildFrame_take_mask (dc : Bytes) (di : Byte) (sc : Bytes) (si : Byte) (info : Bytes)
    (s : State) : buildFrame (dc.take 6) (di &&& 0xF) (sc.take 6) (si &&& 0xF) info s =
      buildFrame dc di sc si info s := by
  simp only [buildFrame, writeFrame, writeBody_take_mask]

end Sys2Proof.Machine
end

section
/-! The statements of spec/10_state.md, settled. -/

namespace Sys2Proof.Machine

/-- Settles O49: each of the five things a step can do keeps the invariant. -/
theorem stepKeepsRegistersFitting : Obligations.StepKeepsRegistersFitting := by
  intro s t hs h
  obtain ⟨-, -, rfl⟩ | ⟨_, -, rfl⟩ | ⟨_, -, -, rfl⟩ | ⟨d, race, later, -, -, hcmd⟩ :=
    runPort_eq_next h
  · exact hs
  · exact State.inv_reset.congr rfl rfl
  · exact hs.congr rfl rfl
  · obtain ⟨-, rfl⟩ | ⟨i, u, -, hu, rfl⟩ := hcmd
    · exact hs.congr rfl rfl
    · exact (exec_keeps_inv hs hu).congr rfl rfl

/-- Settles O30: the build writes its addressing through the address codec alone. -/
theorem truncatedAddressingIsIndistinguishable :
    Obligations.TruncatedAddressingIsIndistinguishable :=
  fun dcall did scall sid info s => buildFrame_take_mask dcall did scall sid info s

/-- Settles O45: the port sets the mark and stops at it, and no command writes it. -/
theorem contractViolationStops : Obligations.ContractViolationStops := by
  refine ⟨fun s later hp hf => ?_, fun s hf hr => runPort_of_fault hf hr, fun i s t h => ?_⟩
  · have htail : s.markFault.port.tail = later := by rw [State.markFault_port, hp, List.tail_cons]
    calc step s = .next s.markFault.popPort := runPort_of_absentOperand hp hf
      _ = .next { s.markFault with port := later } := by rw [State.popPort_eq htail]
  · obtain ⟨-, -, hfault, -⟩ := exec_eq_next h
    exact hfault

/-- Settles O53, from what each command leaves in the registers. -/
theorem onlySettersWriteRegisters : Obligations.OnlySettersWriteRegisters := by
  intro i s t h
  obtain ⟨hcfg, hopt, hfault, -⟩ := exec_eq_next h
  rw [hcfg, hopt]
  exact ⟨fun hi => cfgAfter_src hi s.cfg, fun hi => cfgAfter_dst hi s.cfg,
    fun hi => optAfter_of_ne hi s.opt, hfault⟩

/-- Settles O43: the port runs the command, and the command leaves the port as it was. -/
theorem stepRunsDecodedCommand : Obligations.StepRunsDecodedCommand := by
  intro s d race later i hp hf hd
  have hstep : step s = runCommand exec i s := runPort_of_decode hp hf hd
  rw [hstep]
  refine ⟨fun t ht => ?_, fun e he => runCommand_of_fault he, fun r hr => runCommand_of_refused hr⟩
  obtain ⟨-, -, -, hport⟩ := exec_eq_next ht
  rw [runCommand_of_next ht, State.popPort_eq (by rw [hport, hp, List.tail_cons])]

/-- Settles O47: the reset values by evaluation, the reserved option bits from the invariant. -/
theorem resetValues : Obligations.ResetValues :=
  ⟨rfl, rfl, rfl, rfl, rfl, rfl, fun _ hk => getLsbD_of_reserved State.inv_reset.optReserved hk,
    crcTable_eq_crcShift8, rfl, rfl⟩

/-- Settles O48. -/
theorem registersFitAtReset : Obligations.RegistersFitAtReset := State.inv_reset

end Sys2Proof.Machine
end

section
/-! SUPPORT. What a build does by the allocator's answer, and that it looks at no register; what a command
asks of the allocator; what the commands that change no register answer; and the values a torn read
gives. -/

namespace Sys2Proof.Machine

/-! ### A build, by the allocator's answer -/

section Build

variable {dc : Bytes} {di : Byte} {sc : Bytes} {si : Byte} {info : Bytes} {s t : State}
  {rest : List AllocAnswer}

/-- R146: the allocator fails. -/
theorem buildFrame_of_failed (ha : s.allocator = .failed :: rest) :
    buildFrame dc di sc si info s =
      .next (({ s.emit (.request (20 + info.length)) with allocator := rest }.notify
        .allocationFailed).raise .allocationFailure) := by
  simp [buildFrame, State.alloc, ha, Config.frameOverhead]

/-- R144: the allocator grants. -/
theorem buildFrame_of_granted (ha : s.allocator = .granted :: rest) :
    buildFrame dc di sc si info s =
      .next (({ s.emit (.request (20 + info.length)) with
          allocator := rest, draws := s.draws + 1 }.notify .frameBuilt).answerOk
        (blobBytes (writeFrame (freshBuffer s.draws (20 + info.length)) dc di sc si info))) := by
  simp [buildFrame, State.alloc, ha, Config.frameOverhead]

/-- R239: a build stops exactly when the allocator is silent. -/
theorem buildFrame_eq_fault_iff {e : Fault} :
    buildFrame dc di sc si info s = .fault e ↔ s.allocator = [] ∧ e = .allocatorSilent := by
  obtain ⟨ha, hs⟩ | ⟨rest, ha, -⟩ | ⟨rest, ha, -⟩ :=
    s.alloc_cases (Config.frameOverhead + info.length)
  · simp [buildFrame, hs, ha, eq_comm]
  · simp [buildFrame_of_failed ha, ha]
  · simp [buildFrame_of_granted ha, ha]

/-- R53: a build carries the registers, the options and the port along and looks at none of them. -/
theorem buildFrame_with_registers (h : buildFrame dc di sc si info s = .next t)
    (cfg : StationConfig) (opt : Byte) (port : List HostInput) :
    buildFrame dc di sc si info { s with cfg := cfg, opt := opt, port := port } =
      .next { t with cfg := cfg, opt := opt, port := port } := by
  obtain ⟨rest, ha, rfl⟩ | ⟨rest, ha, rfl⟩ := buildFrame_eq_next h
  · exact buildFrame_of_failed ha
  · exact buildFrame_of_granted ha

/-- R46, R146: one request, for the whole frame. -/
theorem buildFrame_requests (h : buildFrame dc di sc si info s = .next t) :
    t.requests = s.requests ++ [20 + info.length] := by
  obtain ⟨rest, -, rfl⟩ | ⟨rest, -, rfl⟩ := buildFrame_eq_next h
  · rw [State.requests_raise, State.requests_notify, ← State.requests_emit_request]
    exact State.requests_congr rfl
  · rw [State.requests_answerOk, State.requests_notify, ← State.requests_emit_request]
    exact State.requests_congr rfl

end Build

/-! ### PARSE -/

section Parse

variable {frame : Option Bytes} {s t : State}

/-- R168: PARSE asks for no buffer. -/
theorem execParse_requests (h : execParse frame s = .next t) : t.requests = s.requests := by
  obtain ⟨-, hs⟩ | ⟨_, _, -, -, hs⟩ | ⟨_, _, -, -, hs⟩ := execParse_cases frame s <;>
    (rw [hs] at h; cases h; simp)

/-- What PARSE answers, by the option register and its operand (R160, R167). Tied to the model by
`execParse_responses`. -/
def parseResponse (opt : Byte) : Option Bytes → Bytes
  | none => [Status.invalidInput.code]
  | some f =>
    match parseFrame opt f with
    | .error st => [st.code]
    | .ok p => 0x00 :: parsedFields p

theorem execParse_responses (h : execParse frame s = .next t) :
    t.responses = s.responses ++ [parseResponse s.opt frame] := by
  obtain ⟨rfl, hs⟩ | ⟨f, st, rfl, hp, hs⟩ | ⟨f, p, rfl, hp, hs⟩ := execParse_cases frame s
  · rw [hs] at h; cases h; simp [parseResponse]
  · rw [hs] at h; cases h; simp [parseResponse, hp]
  · rw [hs] at h; cases h; simp [parseResponse, hp]

/-- PARSE looks at no StationConfig register. -/
theorem execParse_with_cfg (h : execParse frame s = .next t) (cfg : StationConfig) :
    execParse frame { s with cfg := cfg } = .next { t with cfg := cfg } := by
  obtain ⟨rfl, hs⟩ | ⟨f, st, rfl, hp, hs⟩ | ⟨f, p, rfl, hp, hs⟩ := execParse_cases frame s
  · rw [hs] at h; cases h; rfl
  · rw [hs] at h; cases h; simp only [execParse, hp]; rfl
  · rw [hs] at h; cases h; simp only [execParse, hp]; rfl

end Parse

/-! ### The StationConfig registers seen by one command alone -/

/-- R24: with other StationConfig registers every command but BUILDCFG goes on to the same state, but for
these registers themselves. -/
theorem exec_with_cfg {i : Instr} {s t : State} (hi : i.opcode ≠ 0x05) (h : exec i s = .next t)
    (cfg : StationConfig) :
    exec i { s with cfg := cfg } = .next { t with cfg := cfgAfter i cfg } := by
  cases i with
  | buildcfg => exact absurd rfl hi
  | build =>
    obtain ⟨⟨-, hopt, -⟩, hport⟩ := buildFrame_keeps h
    exact (buildFrame_with_registers h cfg s.opt s.port).trans (by rw [← hopt, ← hport]; rfl)
  | parse => exact execParse_with_cfg h cfg
  | crc16 | addrenc | addrdec | setsrc | setdst | setopt => cases h; rfl

/-! ### A register written twice -/

theorem cfgAfter_cfgAfter (i : Instr) (cfg : StationConfig) :
    cfgAfter i (cfgAfter i cfg) = cfgAfter i cfg := by
  cases i <;> rfl

theorem optAfter_optAfter (i : Instr) (opt : Byte) : optAfter i (optAfter i opt) = optAfter i opt := by
  cases i <;> rfl

/-! ### Torn reads (R52) -/

section TornReads

variable (s : State)

/-! The values R52 admits are those a torn read of the register ranges over. -/

theorem State.srcCallReads_eq :
    s.srcCallReads = s.cfg.srcCall :: (s.overlapping.filterMap srcWrite).map Prod.fst := by
  rw [State.srcCallReads, List.map_filterMap]
  congr 2
  funext i
  cases i <;> simp [srcWrite, storedCall_eq_take]

theorem State.srcIdReads_eq :
    s.srcIdReads = s.cfg.srcId :: (s.overlapping.filterMap srcWrite).map Prod.snd := by
  rw [State.srcIdReads, List.map_filterMap]
  congr 2
  funext i
  cases i <;> rfl

theorem State.dstCallReads_eq :
    s.dstCallReads = s.cfg.dstCall :: (s.overlapping.filterMap dstWrite).map Prod.fst := by
  rw [State.dstCallReads, List.map_filterMap]
  congr 2
  funext i
  cases i <;> simp [dstWrite, storedCall_eq_take]

theorem State.dstIdReads_eq :
    s.dstIdReads = s.cfg.dstId :: (s.overlapping.filterMap dstWrite).map Prod.snd := by
  rw [State.dstIdReads, List.map_filterMap]
  congr 2
  funext i
  cases i <;> rfl

theorem State.snapshot_mem_reads :
    s.snapshot.srcCall ∈ s.srcCallReads ∧ s.snapshot.srcId ∈ s.srcIdReads ∧
      s.snapshot.dstCall ∈ s.dstCallReads ∧ s.snapshot.dstId ∈ s.dstIdReads := by
  rw [s.srcCallReads_eq, s.srcIdReads_eq, s.dstCallReads_eq, s.dstIdReads_eq]
  exact ⟨tornRead_mem _ _ _, tornRead_mem _ _ _, tornRead_mem _ _ _, tornRead_mem _ _ _⟩

/-- R145: BUILDCFG is BUILD of the snapshot. -/
theorem exec_buildcfg_eq_build (info : Bytes) :
    exec (.buildcfg info) s = exec (.build s.snapshot.dstCall (s.snapshot.dstId.setWidth 8)
      s.snapshot.srcCall (s.snapshot.srcId.setWidth 8) info) s := rfl

variable {s}

/-- The overlapping commands depend on how many inputs overlap, not on the values drawn to be read. -/
theorem State.overlapping_of_port {d : Bytes} {race : Race} {later : List HostInput}
    (hp : s.port = .command d race :: later) :
    s.overlapping = commandsBeforeStop (later.take race.overlap) := by
  simp [State.overlapping, State.race, hp]

/-- Some draw with the same overlap gives each combination of admitted values. -/
theorem State.exists_snapshot_eq {d : Bytes} {race : Race} {later : List HostInput} {c : StationConfig}
    (hp : s.port = .command d race :: later)
    (hsc : c.srcCall ∈ s.srcCallReads) (hsi : c.srcId ∈ s.srcIdReads)
    (hdc : c.dstCall ∈ s.dstCallReads) (hdi : c.dstId ∈ s.dstIdReads) :
    ∃ race' : Race, race'.overlap = race.overlap ∧
      State.snapshot { s with port := .command d race' :: later } = c := by
  rw [State.srcCallReads_eq] at hsc
  rw [State.srcIdReads_eq] at hsi
  rw [State.dstCallReads_eq] at hdc
  rw [State.dstIdReads_eq] at hdi
  obtain ⟨pickSc, hsc⟩ := exists_tornRead_eq _ _ _ hsc
  obtain ⟨pickSi, hsi⟩ := exists_tornRead_eq _ _ _ hsi
  obtain ⟨pickDc, hdc⟩ := exists_tornRead_eq _ _ _ hdc
  obtain ⟨pickDi, hdi⟩ := exists_tornRead_eq _ _ _ hdi
  refine ⟨⟨race.overlap, pickSc, pickSi, pickDc, pickDi⟩, rfl, ?_⟩
  rw [State.overlapping_of_port hp] at hsc hsi hdc hdi
  rw [State.snapshot, State.overlapping_of_port rfl]
  simp only [State.race, hsc, hsi, hdc, hdi]

end TornReads

end Sys2Proof.Machine
end

section
/-! The statements of spec/20_memory.md, settled. -/

namespace Sys2Proof.Machine

/-- Settles O27: the values are those of the snapshot. -/
theorem tornReadsAreOldOrWritten : Obligations.TornReadsAreOldOrWritten := by
  intro info s
  obtain ⟨hsc, hsi, hdc, hdi⟩ := s.snapshot_mem_reads
  exact ⟨_, hdc, _, hdi, _, hsc, _, hsi, exec_buildcfg_eq_build s info⟩

/-- Settles O28: one draw picks the four values, each by its own number. -/
theorem everyTornReadIsAdmitted : Obligations.EveryTornReadIsAdmitted := by
  intro info s d race later hp dc hdc di hdi sc hsc si hsi
  obtain ⟨race', hoverlap, hsnapshot⟩ :=
    State.exists_snapshot_eq (c := ⟨sc, si, dc, di⟩) hp hsc hsi hdc hdi
  exact ⟨race', hoverlap, by rw [exec_buildcfg_eq_build, hsnapshot]⟩

/-- Settles O29: only the allocator's answer decides what a build does. -/
theorem buildIgnoresConfiguration : Obligations.BuildIgnoresConfiguration := by
  intro dcall did scall sid info s cfg opt port
  refine ⟨fun t h => buildFrame_with_registers h cfg opt port, fun e h => ?_⟩
  obtain ⟨hsilent, rfl⟩ := buildFrame_eq_fault_iff.1 h
  exact buildFrame_eq_fault_iff.2 ⟨hsilent, rfl⟩

/-- Settles O54: a build asks once for the whole frame, and no other command emits a request. -/
theorem oneAllocationPerBuild : Obligations.OneAllocationPerBuild := by
  intro i s t h
  cases i with
  | build | buildcfg => exact buildFrame_requests h
  | parse => simpa using execParse_requests h
  | crc16 | addrenc | addrdec => cases h; simp
  | setsrc | setdst | setopt => cases h; simp [State.requests]

/-- Settles O55: PARSE's answer is a function of the options and the frame, the others' of the operands
alone. -/
theorem pureCommandsAnswerAlike : Obligations.PureCommandsAnswerAlike := by
  intro i s s' t t' hi hopt h h'
  cases i with
  | parse =>
    have hs := execParse_responses h
    rw [hopt rfl] at hs
    exact ⟨_, hs, execParse_responses h'⟩
  | crc16 | addrenc | addrdec =>
    cases h; cases h'
    exact ⟨_, State.responses_answerOk _ _, State.responses_answerOk _ _⟩
  | build | buildcfg | setsrc | setdst | setopt => simp [Instr.opcode] at hi

/-- Settles O56: the other registers are carried along, and the outputs do not show them. -/
theorem addressingSeenOnlyByBuildcfg : Obligations.AddressingSeenOnlyByBuildcfg :=
  fun _ _ _ cfg hi h => ⟨_, exec_with_cfg hi h cfg, rfl, rfl, rfl⟩

/-- Settles O42: what a command leaves in a register, it leaves there again. -/
theorem settersIdempotent : Obligations.SettersIdempotent := by
  intro i s t u _ ht hu
  obtain ⟨htcfg, htopt, -, -⟩ := exec_eq_next ht
  obtain ⟨hucfg, huopt, hufault, -⟩ := exec_eq_next hu
  refine ⟨?_, ?_, hufault⟩
  · rw [hucfg, htcfg, cfgAfter_cfgAfter]
  · rw [huopt, htopt, optAfter_optAfter]

end Sys2Proof.Machine
end

section
/-! SUPPORT. The decoder as a whole: it reads back the descriptor the encoder wrote whatever follows it,
and what it reads is a descriptor of a well-formed command (spec/30_encoding.md R66, R72). -/

namespace Sys2Proof

variable {i j : Instr} {op : Byte} {d rest rest' : Bytes}

/-- A reader that goes on after another starts from what the other read. -/
theorem exists_of_bind_eq_ok {ε α β : Type} {x : Except ε α} {f : α → Except ε β} {b : β}
    (h : x >>= f = .ok b) : ∃ a, x = .ok a ∧ f a = .ok b := by
  cases x with
  | error e => cases h
  | ok a => exact ⟨a, rfl, h⟩

/-- A reader after one that read. -/
@[simp] theorem ok_bind {ε α β : Type} (a : α) (f : α → Except ε β) :
    ((.ok a : Except ε α) >>= f) = f a := rfl

/-- A reader after one that failed. -/
@[simp] theorem error_bind {ε α β : Type} (e : ε) (f : α → Except ε β) :
    ((.error e : Except ε α) >>= f) = .error e := rfl

@[simp] theorem pure_eq_ok {ε α : Type} (a : α) : (pure a : Except ε α) = .ok a := rfl

/-- Operands written by the encoder are read back, and nothing after them is touched (R71). -/
theorem readOperands_operandBytes_append (h : i.wf = true) (rest : Bytes) :
    readOperands i.opcode (i.operandBytes ++ rest) = .ok (i, rest) := by
  cases i with
  | crc16 data =>
    have hdata := (blobFits_iff data).1 h
    simp [readOperands, Instr.opcode, Instr.operandBytes, readBlob_blobBytes, hdata]
  | addrenc call id final =>
    have hcall := (blobFits_iff call).1 h
    simp [readOperands, Instr.opcode, Instr.operandBytes, readBlob_blobBytes, hcall]
  | addrdec field =>
    have hfield := (addr7Fits_iff field).1 h
    simp [readOperands, Instr.opcode, Instr.operandBytes, readAddr7_append, hfield]
  | build dcall did scall sid info =>
    simp only [Instr.wf, Bool.and_eq_true, blobFits_iff, infoFits_iff] at h
    obtain ⟨⟨hdcall, hscall⟩, hinfo⟩ := h
    simp [readOperands, Instr.opcode, Instr.operandBytes, readBlob_blobBytes, readInfo_blobBytes, hdcall,
      hscall, hinfo]
  | buildcfg info =>
    have hinfo := (infoFits_iff info).1 h
    simp [readOperands, Instr.opcode, Instr.operandBytes, readInfo_blobBytes, hinfo]
  | parse frame =>
    cases frame with
    | none => simp [readOperands, Instr.opcode, Instr.operandBytes]
    | some frame =>
      have hframe := (blobFits_iff frame).1 h
      simp [readOperands, Instr.opcode, Instr.operandBytes, readBlob_blobBytes, hframe]
  | setsrc call id | setdst call id =>
    have hcall := (blobFits_iff call).1 h
    simp [readOperands, Instr.opcode, Instr.operandBytes, readBlob_blobBytes, hcall]
  | setopt verify strict =>
    simp [readOperands, Instr.opcode, Instr.operandBytes, readOpts_optsByte]

/-- Operands that are read are those of a well-formed command, byte for byte, before what is left. -/
theorem readOperands_eq_ok (h : readOperands op d = .ok (i, rest)) :
    i.wf = true ∧ op = i.opcode ∧ d = i.operandBytes ++ rest := by
  unfold readOperands at h
  split at h
  case h_1 hop =>
    obtain ⟨⟨data, d₁⟩, hdata, h₁⟩ := exists_of_bind_eq_ok h
    obtain ⟨rfl, hfits⟩ := readBlob_eq_ok hdata
    cases h₁
    exact ⟨(blobFits_iff _).2 hfits, BitVec.eq_of_toNat_eq hop, rfl⟩
  case h_2 hop =>
    obtain ⟨⟨call, d₁⟩, hcall, h₁⟩ := exists_of_bind_eq_ok h
    obtain ⟨⟨id, d₂⟩, hid, h₂⟩ := exists_of_bind_eq_ok h₁
    obtain ⟨⟨final, d₃⟩, hfinal, h₃⟩ := exists_of_bind_eq_ok h₂
    obtain ⟨rfl, hfits⟩ := readBlob_eq_ok hcall
    obtain rfl := readU8_eq_ok hid
    obtain rfl := readBool_eq_ok hfinal
    cases h₃
    exact ⟨(blobFits_iff _).2 hfits, BitVec.eq_of_toNat_eq hop, by simp [Instr.operandBytes]⟩
  case h_3 hop =>
    obtain ⟨⟨field, d₁⟩, hfield, h₁⟩ := exists_of_bind_eq_ok h
    obtain ⟨rfl, hfits⟩ := readAddr7_eq_ok hfield
    cases h₁
    exact ⟨(addr7Fits_iff _).2 hfits, BitVec.eq_of_toNat_eq hop, rfl⟩
  case h_4 hop =>
    obtain ⟨⟨dcall, d₁⟩, hdcall, h₁⟩ := exists_of_bind_eq_ok h
    obtain ⟨⟨did, d₂⟩, hdid, h₂⟩ := exists_of_bind_eq_ok h₁
    obtain ⟨⟨scall, d₃⟩, hscall, h₃⟩ := exists_of_bind_eq_ok h₂
    obtain ⟨⟨sid, d₄⟩, hsid, h₄⟩ := exists_of_bind_eq_ok h₃
    obtain ⟨⟨info, d₅⟩, hinfo, h₅⟩ := exists_of_bind_eq_ok h₄
    obtain ⟨rfl, hdfits⟩ := readBlob_eq_ok hdcall
    obtain rfl := readU8_eq_ok hdid
    obtain ⟨rfl, hsfits⟩ := readBlob_eq_ok hscall
    obtain rfl := readU8_eq_ok hsid
    obtain ⟨rfl, hifits⟩ := readInfo_eq_ok hinfo
    cases h₅
    exact ⟨by simp [Instr.wf, hdfits, hsfits, hifits], BitVec.eq_of_toNat_eq hop,
      by simp [Instr.operandBytes]⟩
  case h_5 hop =>
    obtain ⟨⟨info, d₁⟩, hinfo, h₁⟩ := exists_of_bind_eq_ok h
    obtain ⟨rfl, hfits⟩ := readInfo_eq_ok hinfo
    cases h₁
    exact ⟨(infoFits_iff _).2 hfits, BitVec.eq_of_toNat_eq hop, rfl⟩
  case h_6 hop =>
    obtain ⟨⟨present, d₁⟩, hpresent, h₁⟩ := exists_of_bind_eq_ok h
    obtain rfl := readBool_eq_ok hpresent
    cases present with
    | false =>
      cases h₁
      exact ⟨rfl, BitVec.eq_of_toNat_eq hop, rfl⟩
    | true =>
      obtain ⟨⟨frame, d₂⟩, hframe, h₂⟩ := exists_of_bind_eq_ok h₁
      obtain ⟨rfl, hfits⟩ := readBlob_eq_ok hframe
      cases h₂
      exact ⟨(blobFits_iff _).2 hfits, BitVec.eq_of_toNat_eq hop, rfl⟩
  case h_7 hop | h_8 hop =>
    obtain ⟨⟨call, d₁⟩, hcall, h₁⟩ := exists_of_bind_eq_ok h
    obtain ⟨⟨id, d₂⟩, hid, h₂⟩ := exists_of_bind_eq_ok h₁
    obtain ⟨rfl, hfits⟩ := readBlob_eq_ok hcall
    obtain rfl := readU8_eq_ok hid
    cases h₂
    exact ⟨(blobFits_iff _).2 hfits, BitVec.eq_of_toNat_eq hop, by simp [Instr.operandBytes]⟩
  case h_9 hop =>
    obtain ⟨⟨o, d₁⟩, ho, h₁⟩ := exists_of_bind_eq_ok h
    obtain rfl := readOpts_eq_ok ho
    cases h₁
    exact ⟨rfl, BitVec.eq_of_toNat_eq hop, rfl⟩
  case h_10 => cases h

/-- The command a byte sequence begins with is the one whose descriptor it begins with (R66). -/
theorem decodePrefix_eq_ok_iff :
    decodePrefix d = .ok (i, rest) ↔ i.wf = true ∧ d = encode i ++ rest := by
  constructor
  · intro h
    cases d with
    | nil => cases h
    | cons op d =>
      obtain ⟨hwf, rfl, rfl⟩ := readOperands_eq_ok h
      exact ⟨hwf, rfl⟩
  · rintro ⟨hwf, rfl⟩
    exact readOperands_operandBytes_append hwf rest

theorem decode_eq_ok_iff_decodePrefix : decode d = .ok i ↔ decodePrefix d = .ok (i, []) := by
  unfold decode
  split
  case h_1 he => simp [he]
  case h_2 j hj => simp [hj]
  case h_3 j b tail hj => simp [hj]

/-- R72: a descriptor decodes exactly to the well-formed command it is the descriptor of. -/
theorem decode_eq_ok_iff : decode d = .ok i ↔ i.wf = true ∧ d = encode i := by
  rw [decode_eq_ok_iff_decodePrefix, decodePrefix_eq_ok_iff, List.append_nil]

/-- No descriptor begins another: where one ends is settled by its own bytes (R66). -/
theorem encode_append_inj (hi : i.wf = true) (hj : j.wf = true)
    (h : encode i ++ rest = encode j ++ rest') : i = j ∧ rest = rest' := by
  have hread : decodePrefix (encode i ++ rest) = .ok (i, rest) := decodePrefix_eq_ok_iff.2 ⟨hi, rfl⟩
  rw [decodePrefix_eq_ok_iff.2 ⟨hj, h⟩] at hread
  cases hread
  exact ⟨rfl, rfl⟩

/-- What is the descriptor of no well-formed command decodes to nothing. -/
theorem toOption_decode_eq_none (h : ∀ i : Instr, i.wf = true → d ≠ encode i) :
    (decode d).toOption = none := by
  cases hd : decode d with
  | error e => rfl
  | ok i =>
    obtain ⟨hwf, henc⟩ := decode_eq_ok_iff.1 hd
    exact absurd henc (h i hwf)

/-! ### Malformed descriptors (R73, R74) -/

/-- A descriptor that breaks off is none: the missing bytes would stand behind a whole one. -/
theorem toOption_decode_take_encode (hi : i.wf = true) {k : Nat} (hk : k < (encode i).length) :
    (decode ((encode i).take k)).toOption = none := by
  refine toOption_decode_eq_none fun j hj heq => ?_
  have hsplit : encode i ++ [] = encode j ++ (encode i).drop k := by
    rw [← heq, List.take_append_drop, List.append_nil]
  obtain ⟨-, hdrop⟩ := encode_append_inj hi hj hsplit
  exact absurd (List.drop_eq_nil_iff.1 hdrop.symm) (Nat.not_le_of_lt hk)

/-- A descriptor ends where its signature ends. -/
theorem toOption_decode_encode_append_cons (hi : i.wf = true) (b : Byte) (rest : Bytes) :
    (decode (encode i ++ b :: rest)).toOption = none := by
  refine toOption_decode_eq_none fun j hj heq => ?_
  obtain ⟨-, hrest⟩ := encode_append_inj hi hj (heq.trans (List.append_nil _).symm)
  cases hrest

theorem decode_of_decodePrefix_error {e : Malformed} (h : decodePrefix d = .error e) :
    decode d = .error e := by
  simp [decode, h]

theorem readBool_of_ne {b : Byte} (h0 : b ≠ 0) (h1 : b ≠ 1) (rest : Bytes) :
    readBool (b :: rest) = .error .notBool := by
  rw [readBool, if_neg h0, if_neg h1]

theorem readOpts_of_reserved {o : Byte} (h : o &&& 0xFC ≠ 0) (rest : Bytes) :
    readOpts (o :: rest) = .error .reservedOptsBit := by
  rw [readOpts, if_neg h]

theorem decode_addrenc_notBool {call : Bytes} {b : Byte} (hcall : call.length ≤ 4294967295)
    (h0 : b ≠ 0) (h1 : b ≠ 1) (id : Byte) (rest : Bytes) :
    decode (0x02 :: blobBytes call ++ id :: b :: rest) = .error .notBool := by
  apply decode_of_decodePrefix_error
  simp [decodePrefix, readOperands, readBlob_blobBytes, hcall, readBool_of_ne h0 h1]

theorem decode_parse_notBool {b : Byte} (h0 : b ≠ 0) (h1 : b ≠ 1) (rest : Bytes) :
    decode (0x06 :: b :: rest) = .error .notBool := by
  apply decode_of_decodePrefix_error
  simp [decodePrefix, readOperands, readBool_of_ne h0 h1]

theorem decode_setopt_reserved {o : Byte} (h : o &&& 0xFC ≠ 0) (rest : Bytes) :
    decode (0x09 :: o :: rest) = .error .reservedOptsBit := by
  apply decode_of_decodePrefix_error
  simp [decodePrefix, readOperands, readOpts_of_reserved h]

theorem decode_buildcfg_infoTooLong {info : Bytes} (hlong : 4294967275 < info.length)
    (hinfo : info.length ≤ 4294967295) (rest : Bytes) :
    decode (0x05 :: blobBytes info ++ rest) = .error .infoTooLong := by
  apply decode_of_decodePrefix_error
  simp [decodePrefix, readOperands, readInfo_too_long info rest hlong hinfo]

theorem decode_build_infoTooLong {dcall scall info : Bytes} (hdcall : dcall.length ≤ 4294967295)
    (hscall : scall.length ≤ 4294967295) (hlong : 4294967275 < info.length)
    (hinfo : info.length ≤ 4294967295) (did sid : Byte) (rest : Bytes) :
    decode (0x04 :: blobBytes dcall ++ [did] ++ blobBytes scall ++ [sid] ++ blobBytes info ++ rest) =
      .error .infoTooLong := by
  apply decode_of_decodePrefix_error
  simp [decodePrefix, readOperands, readBlob_blobBytes, hdcall, hscall,
    readInfo_too_long info rest hlong hinfo]

/-- The opcode map of R70 uses 0x01 to 0x09. -/
theorem Instr.opcode_bounds (i : Instr) : 0x01 ≤ i.opcode ∧ i.opcode ≤ 0x09 := by
  cases i <;> simp [Instr.opcode]

/-- A reserved opcode begins no descriptor (R73). -/
theorem toOption_decode_reserved (hop : op = 0x00 ∨ 0x0A ≤ op) (rest : Bytes) :
    (decode (op :: rest)).toOption = none := by
  refine toOption_decode_eq_none fun i _ heq => ?_
  obtain ⟨hlow, hhigh⟩ := i.opcode_bounds
  obtain ⟨rfl, -⟩ := List.cons.inj heq
  bv_omega

end Sys2Proof
end

section
/-! SUPPORT. What the command port does with a descriptor that does not decode, how every command ends,
and where the fields of an assembled frame stand. -/

namespace Sys2Proof.Machine

/-! ### The end of a command (R75) -/

/-- A descriptor that does not decode is answered IllegalCommand and is gone from the port (R74). -/
theorem runPort_of_malformed {run : Instr → State → Host.Outcome State Fault Refusal} {s : State}
    {d : Bytes} {race : Race} {later : List HostInput} (hp : s.port = .command d race :: later)
    (hf : s.fault = false) (hd : (decode d).toOption = none) :
    runPort run s = .next (s.raise .illegalCommand).popPort := by
  cases he : decode d with
  | error e => simp [runPort, hp, hf, he]
  | ok i => simp [he, Except.toOption] at hd

/-- The second state has given exactly one response more than the first: a status and its result fields,
of which an error has none (R75). -/
def AnswersOnce (s t : State) : Prop :=
  ∃ (st : Status) (fields : Bytes), t.responses = s.responses ++ [st.code :: fields] ∧
    (st ≠ .ok → fields = [])

section Answers

variable {s t u : State}

theorem answersOnce_answerOk (h : u.responses = s.responses) (fields : Bytes) :
    AnswersOnce s (u.answerOk fields) :=
  ⟨.ok, fields, by rw [State.responses_answerOk, h]; rfl, fun hst => absurd rfl hst⟩

theorem answersOnce_raise (h : u.responses = s.responses) (st : Status) :
    AnswersOnce s (u.raise st) :=
  ⟨st, [], by rw [State.responses_raise, h], fun _ => rfl⟩

/-- A command that goes on has answered once. -/
theorem exec_answersOnce {i : Instr} (h : exec i s = .next t) : AnswersOnce s t := by
  cases i with
  | build | buildcfg =>
    obtain ⟨rest, -, rfl⟩ | ⟨rest, -, rfl⟩ := buildFrame_eq_next h
    · exact answersOnce_raise (by simp [State.responses]) _
    · exact answersOnce_answerOk (by simp [State.responses]) _
  | parse frame =>
    obtain ⟨-, hs⟩ | ⟨_, st, -, -, hs⟩ | ⟨_, p, -, -, hs⟩ := execParse_cases frame s
    · cases hs.symm.trans h
      exact answersOnce_raise rfl _
    · cases hs.symm.trans h
      exact answersOnce_raise rfl _
    · cases hs.symm.trans h
      exact answersOnce_answerOk (State.responses_notify _ _) _
  | crc16 | addrenc | addrdec | setsrc | setdst | setopt =>
    cases h
    exact answersOnce_answerOk rfl _

/-- So has a step that takes a descriptor from the port, decoded or refused. -/
theorem step_answersOnce {d : Bytes} {race : Race} {later : List HostInput}
    (hp : s.port = .command d race :: later) (h : step s = .next t) : AnswersOnce s t := by
  obtain ⟨hp', -⟩ | ⟨_, hp', -⟩ | ⟨_, hp', -⟩ | ⟨_, _, _, -, -, hcmd⟩ := runPort_eq_next h
  · simp [hp] at hp'
  · simp [hp] at hp'
  · simp [hp] at hp'
  · obtain ⟨-, rfl⟩ | ⟨i, u, -, hu, rfl⟩ := hcmd
    · exact answersOnce_raise rfl _
    · exact (exec_answersOnce hu :)

end Answers

/-- The status codes are 0x00 to 0x07 (R76). -/
theorem Status.code_le (st : Status) : st.code ≤ 0x07 := by
  cases st <;> decide

theorem Status.ne_ok_of_code {st : Status} (h : st.code ≠ 0x00) : st ≠ .ok := by
  rintro rfl
  exact h rfl

/-! ### The fields of an assembled frame (R60) -/

section Assemble

variable (dc : Bytes) (di : Byte) (sc : Bytes) (si : Byte) (info : Bytes)

/-- The body stands at the offsets 1 to 16 + N, which the checksum covers (R142). -/
theorem assemble_body :
    ((assemble dc di sc si info).drop 1).take (16 + info.length) = frameBody dc di sc si info := by
  simp [assemble]

theorem assemble_dst : ((assemble dc di sc si info).drop 1).take 7 = addrEncode dc di false := by
  simp [assemble, frameBody]

theorem assemble_src : ((assemble dc di sc si info).drop 8).take 7 = addrEncode sc si true := by
  simp [assemble, frameBody]

theorem assemble_control : (assemble dc di sc si info)[15]? = some Config.ctrlUi := by
  simp [assemble, frameBody, List.getElem?_append]

theorem assemble_pid : (assemble dc di sc si info)[16]? = some Config.pidNoL3 := by
  simp [assemble, frameBody, List.getElem?_append]

theorem assemble_info : ((assemble dc di sc si info).drop 17).take info.length = info := by
  simp [assemble, frameBody, List.drop_append, List.drop_eq_nil_of_le]

/-- Behind the body stand the checksum, low byte first, and the closing flag (R142, R43). -/
theorem assemble_tail (k : Nat) : (assemble dc di sc si info)[17 + info.length + k]? =
    (u16Field (crc16 (frameBody dc di sc si info)) ++ [Config.flag])[k]? := by
  rw [← List.getElem?_drop, assemble, List.append_assoc, List.drop_left' (by simp; omega)]

end Assemble

end Sys2Proof.Machine
end

section
/-! The statements of spec/30_encoding.md, and the frame layout of R60, settled. -/

namespace Sys2Proof.Machine

/-- Settles O1: nothing stands behind the descriptor. -/
theorem decodeOfEncode : Obligations.DecodeOfEncode :=
  fun _ hwf => decode_eq_ok_iff.2 ⟨hwf, rfl⟩

/-- Settles O2: every reader reads only what the encoder writes, and the last one leaves nothing. -/
theorem encodeOfDecode : Obligations.EncodeOfDecode := by
  intro d i h
  obtain ⟨hwf, henc⟩ := decode_eq_ok_iff.1 h
  exact ⟨hwf, henc.symm⟩

/-- Settles O4: the first two kinds because no descriptor begins another, the others by the operand at
fault. -/
theorem malformedDescriptorsRefused : Obligations.MalformedDescriptorsRefused := by
  refine ⟨rfl, fun i k hi hk => toOption_decode_take_encode hi hk,
    fun i b rest hi => toOption_decode_encode_append_cons hi b rest, ?_, ?_, ?_, ?_, ?_⟩
  · intro call id b rest hcall h0 h1
    exact congrArg Except.toOption (decode_addrenc_notBool hcall h0 h1 id rest)
  · intro b rest h0 h1
    exact congrArg Except.toOption (decode_parse_notBool h0 h1 rest)
  · intro o rest ho
    exact congrArg Except.toOption (decode_setopt_reserved ho rest)
  · intro info rest hlong hinfo
    exact congrArg Except.toOption (decode_buildcfg_infoTooLong hlong hinfo rest)
  · intro dcall scall info did sid rest hdcall hscall hlong hinfo
    exact congrArg Except.toOption
      (decode_build_infoTooLong hdcall hscall hlong hinfo did sid rest)

/-- Settles O6: the port answers and goes on to the next input. -/
theorem malformedCommandChangesNothing : Obligations.MalformedCommandChangesNothing := by
  intro s d race later hd hp hf
  have htail : (s.raise .illegalCommand).port.tail = later := by
    rw [State.raise_port, hp, List.tail_cons]
  calc step s = .next (s.raise .illegalCommand).popPort := runPort_of_malformed hp hf hd
    _ = .next { s.raise .illegalCommand with port := later } := by rw [State.popPort_eq htail]

/-- Settles O5: a reserved opcode is the opcode of no command. -/
theorem reservedOpcodesRefused : Obligations.ReservedOpcodesRefused :=
  fun s _ rest race later hop hp hf =>
    malformedCommandChangesNothing s _ race later (toOption_decode_reserved hop rest) hp hf

/-- Settles O21: the checksum is taken over the body, which stands at the offsets 1 to 16 + N. -/
theorem assembledFrameLayout : Obligations.AssembledFrameLayout := by
  rintro dc di sc si info f rfl
  rw [assemble_body, show 18 + info.length = 17 + info.length + 1 by omega,
    show 19 + info.length = 17 + info.length + 2 by omega]
  exact ⟨rfl, assemble_dst dc di sc si info, assemble_src dc di sc si info,
    assemble_control dc di sc si info, assemble_pid dc di sc si info, assemble_info dc di sc si info,
    assemble_tail dc di sc si info 0, assemble_tail dc di sc si info 1,
    assemble_tail dc di sc si info 2⟩

/-- Settles O50: an error's answer is its status, and the other answers are OK. -/
theorem oneResponsePerCommand : Obligations.OneResponsePerCommand := by
  intro s t d race later hp h
  obtain ⟨st, fields, hresponses, herror⟩ := step_answersOnce hp h
  exact ⟨st.code, fields, hresponses, st.code_le, fun hst => herror (Status.ne_ok_of_code hst)⟩

/-- Settles O3: the samples and the refused descriptors are closed byte sequences, decoded by
evaluation. -/
theorem sampleDescriptorsDecode : Obligations.SampleDescriptorsDecode := by
  unfold Obligations.SampleDescriptorsDecode
  decide

end Sys2Proof.Machine
end

section
/-! SUPPORT. One byte through the accumulator, by the table and by shift steps, is the same; and the two
bytes of a value passed in one after the other are sixteen shift steps of the accumulator XOR that value
(spec/41_checksum.md R101, R102). -/

namespace Sys2Proof.Machine

/-- Eight shift steps bring a byte that stands in the high half down to the low half: none of its bits
is shifted out before. A closed fact of 256 bytes. -/
theorem crcShift8_setWidth_shiftLeft : ∀ b : Byte, crcShift8 (b.setWidth 16 <<< 8) = b.setWidth 16 := by
  decide +kernel

/-- Eight shift steps of any value: its high byte moves down, its low byte selects the table entry. -/
theorem crcShift8_eq_crcTable (c : U16) : crcShift8 c = (c >>> 8) ^^^ crcTable (lowByte c) := by
  calc crcShift8 c
      = crcShift8 (((highByte c).setWidth 16 <<< 8) ^^^ (lowByte c).setWidth 16) := by
        rw [← eq_highByte_xor_lowByte]
    _ = (highByte c).setWidth 16 ^^^ crcTable (lowByte c) := by
        rw [crcShift8_xor, crcShift8_setWidth_shiftLeft, crcTable_eq_crcShift8]
    _ = (c >>> 8) ^^^ crcTable (lowByte c) := by rw [setWidth_highByte]

theorem setWidth_ushiftRight_eight (b : Byte) : b.setWidth 16 >>> 8 = 0#16 := by
  revert b
  decide

/-- The byte only enters the low half of the accumulator, so the half shifted down is the accumulator's
own. -/
theorem crcStep_eq_crcStepBitwise (acc : U16) (b : Byte) : crcStep acc b = crcStepBitwise acc b := by
  have hhigh : (acc ^^^ b.setWidth 16) >>> 8 = acc >>> 8 := by
    rw [BitVec.ushiftRight_xor_distrib, setWidth_ushiftRight_eight, BitVec.xor_zero]
  rw [crcStep, crcStepBitwise, crcShift8_eq_crcTable, hhigh]

/-- By linearity the high byte may be XORed in before the eight shift steps of the low byte. -/
theorem foldl_crcStep_u16Field (acc v : U16) :
    (u16Field v).foldl crcStep acc = crcShift8 (crcShift8 (acc ^^^ v)) := by
  calc (u16Field v).foldl crcStep acc
      = crcShift8 (crcShift8 (acc ^^^ (lowByte v).setWidth 16) ^^^ (highByte v).setWidth 16) := by
        simp only [u16Field, List.foldl, crcStep_eq_crcStepBitwise, crcStepBitwise]
    _ = crcShift8 (crcShift8 (acc ^^^ (lowByte v).setWidth 16) ^^^
          crcShift8 ((highByte v).setWidth 16 <<< 8)) := by
        rw [crcShift8_setWidth_shiftLeft]
    _ = crcShift8 (crcShift8 (acc ^^^
          (((highByte v).setWidth 16 <<< 8) ^^^ (lowByte v).setWidth 16))) := by
        rw [← crcShift8_xor, BitVec.xor_assoc, BitVec.xor_comm ((lowByte v).setWidth 16)]
    _ = crcShift8 (crcShift8 (acc ^^^ v)) := by rw [← eq_highByte_xor_lowByte]

/-- What the data leaves in the accumulator cancels against its checksum: CRC_XOROUT remains. -/
theorem crc16_append_crc16 (s : Bytes) :
    crc16 (s ++ u16Field (crc16 s)) =
      crcShift8 (crcShift8 Config.crcXorOut) ^^^ Config.crcXorOut := by
  have hcancel : s.foldl crcStep Config.crcInit ^^^ crc16 s = Config.crcXorOut := by
    rw [crc16, ← BitVec.xor_assoc, BitVec.xor_self, BitVec.zero_xor]
  rw [crc16, List.foldl_append, foldl_crcStep_u16Field, hcancel]

end Sys2Proof.Machine
end

section
/-! The statements of spec/41_checksum.md, settled. -/

namespace Sys2Proof.Machine

/-- Settles O8: the two computations are folds of one step. -/
theorem crcBitSerialAgrees : Obligations.CrcBitSerialAgrees := by
  intro s
  have hstep : crcStep = crcStepBitwise := funext₂ crcStep_eq_crcStepBitwise
  rw [crc16, crc16Bitwise, hstep]

/-- Settles O10: the residue is that of CRC_XOROUT alone. -/
theorem crcResidue : Obligations.CrcResidue := by
  intro s
  calc crc16 (s ++ u16Field (crc16 s))
      = crcShift8 (crcShift8 Config.crcXorOut) ^^^ Config.crcXorOut := crc16_append_crc16 s
    _ = 0x0F47 := by decide +kernel

/-- Settles O7: the constant table's own fact, with the iteration of its shift step unrolled. -/
theorem crcTableEntries : Obligations.CrcTableEntries := crcTable_eq_crcShift8

/-- Settles O9: three closed byte sequences, by evaluation. -/
theorem crcCheckValues : Obligations.CrcCheckValues := by
  unfold Obligations.CrcCheckValues
  decide

/-- Settles O11: the command answers from its operand alone; the corner values by evaluation. -/
theorem crc16Command : Obligations.Crc16Command :=
  fun _ _ => ⟨rfl, rfl, by decide, by decide⟩

end Sys2Proof.Machine
end

section
/-! SUPPORT. The address codec read from outside: the bytes of an encoded field by their offset, what
trimming leaves, what any field decodes to, and what an encoded one does (spec/42_address.md R121, R124,
R126). -/

namespace Sys2Proof.Machine

section Encoding

variable (c : Bytes) (id : Byte) (final : Bool)

/-- A byte past the end of the callsign is a space (R120, R121). -/
theorem getElem?_addrEncode_call {k : Nat} (hk : k < 6) :
    (addrEncode c id final)[k]? = some (c.getD k space <<< 1) := by
  simp [addrEncode, callsign6, Config.callLen, List.getElem?_append, hk]

theorem getElem?_addrEncode_ssid : (addrEncode c id final)[6]? = some (ssidByte id final) := by
  simp [addrEncode]

/-- Above the masked id stands the reserved marker, below it the final bit (R63). -/
theorem ssidByte_fixedBits : (ssidByte id final).getLsbD 7 = false ∧
    (ssidByte id final).getLsbD 6 = true ∧ (ssidByte id final).getLsbD 5 = true ∧
    (ssidByte id final).getLsbD 0 = final := by
  cases final <;> simp [ssidByte, Config.ssidReserved, boolByte]

/-- The least and the greatest SSID byte: the id 0 not final, and the id 15 final. A closed fact of
512 operands. -/
theorem ssidByte_bounds : ∀ (id : Byte) (final : Bool),
    0x60 ≤ ssidByte id final ∧ ssidByte id final ≤ 0x7F := by
  decide

end Encoding

/-! ### What trimming leaves (R124) -/

section Trim

variable (c : Bytes)

/-- What is trimmed off reads as the space that a position past the end stands for. -/
theorem getD_trimSpaces (k : Nat) : (trimSpaces c).getD k space = c.getD k space := by
  obtain ⟨n, hc, -⟩ := trimSpaces_spec c
  conv_rhs => rw [hc]
  by_cases hk : k < (trimSpaces c).length
  · rw [List.getD_append _ _ _ _ hk]
  · have hge := Nat.le_of_not_lt hk
    rw [List.getD_append_right _ _ _ _ hge, List.getD_eq_default _ _ hge,
      List.getD_eq_getElem?_getD, List.getElem?_getD_replicate_default_eq]

theorem getLast?_trimSpaces_ne : (trimSpaces c).getLast? ≠ some space := by
  obtain ⟨-, -, hlast⟩ := trimSpaces_spec c
  exact hlast

theorem trimSpaces_prefix : trimSpaces c <+: c := by
  obtain ⟨n, hc, -⟩ := trimSpaces_spec c
  exact ⟨_, hc.symm⟩

end Trim

/-! ### What any field decodes to (R124, R125) -/

section Decoding

variable (f : Bytes)

theorem length_fieldCall_le : (fieldCall f).length ≤ 6 := by
  calc (fieldCall f).length ≤ ((f.take 6).map fun b : Byte => b >>> 1).length :=
        (trimSpaces_prefix _).length_le
    _ ≤ 6 := by simp

theorem getLast?_fieldCall_ne : (fieldCall f).getLast? ≠ some space := getLast?_trimSpaces_ne _

/-- A byte shifted down has lost its bit 7. -/
theorem ushiftRight_one_le (b : Byte) : b >>> 1 ≤ 0x7F := by
  revert b
  decide

theorem le_of_mem_fieldCall {b : Byte} (hb : b ∈ fieldCall f) : b ≤ 0x7F := by
  obtain ⟨a, -, rfl⟩ := List.mem_map.1 ((trimSpaces_prefix _).subset hb)
  exact ushiftRight_one_le a

theorem getD_fieldCall {k : Nat} (hk : k < 6) (hlen : k < f.length) :
    (fieldCall f).getD k space = f.getD k 0 >>> 1 := by
  rw [fieldCall, getD_trimSpaces]
  simp [Config.callLen, hk, hlen]

/-- The id is bits 4:1 of the SSID byte. -/
theorem toNat_fieldId : (fieldId f).toNat = (f.getD 6 0).toNat / 2 % 16 := by
  simp [fieldId, Config.callLen, Nat.shiftRight_eq_div_pow]

theorem idByte_le (id : BitVec 4) : idByte id ≤ 15 := by
  revert id
  decide

end Decoding

/-! ### What an encoded field decodes to (R126, R127) -/

section RoundTrip

variable {c : Bytes}

/-- The six bytes that are encoded come back, when they are 7-bit and trimming keeps them. -/
theorem fieldCall_addrEncode_eq_take (hascii : ∀ b ∈ c.take 6, b < 0x80)
    (hlast : (c.take 6).getLast? ≠ some space) (id : Byte) (final : Bool) :
    fieldCall (addrEncode c id final) = c.take 6 := by
  have hmap : (c.take 6).map (fun b : Byte => b <<< 1 >>> 1) = c.take 6 :=
    (List.map_congr_left fun b hb => shift_up_down b (hascii b hb)).trans (List.map_id _)
  calc fieldCall (addrEncode c id final)
      = trimSpaces ((callsign6 c).map fun b : Byte => b <<< 1 >>> 1) := fieldCall_addrEncode c id final
    _ = trimSpaces (c.take 6 ++ List.replicate (6 - c.length) space) := by
        rw [callsign6_eq_take, List.map_append, hmap, List.map_replicate, shift_up_down space (by decide)]
    _ = c.take 6 := trimSpaces_append_spaces _ _ hlast

/-- Printable bytes other than the space are 7-bit, and trimming keeps them (R126). -/
theorem fieldCall_addrEncode_of_printable (hc : ∀ b ∈ c, 0x21 ≤ b ∧ b ≤ 0x7E) (id : Byte)
    (final : Bool) : fieldCall (addrEncode c id final) = c.take 6 := by
  refine fieldCall_addrEncode_eq_take (fun b hb => ?_) (fun hlast => ?_) id final
  · have hle := (hc b (List.mem_of_mem_take hb)).2
    exact Nat.lt_of_le_of_lt hle (by decide : (0x7E : Byte) < 0x80)
  · have hspace := hc space (List.mem_of_mem_take (List.mem_of_getLast? hlast))
    exact absurd hspace.1 (by decide)

/-- A callsign that comes back is one a field can hold. -/
theorem callsign_of_fieldCall_eq {f : Bytes} (h : fieldCall f = c) :
    c.length ≤ 6 ∧ (∀ b ∈ c, b ≤ 0x7F) ∧ c.getLast? ≠ some space :=
  h ▸ ⟨length_fieldCall_le f, fun _ => le_of_mem_fieldCall f, getLast?_fieldCall_ne f⟩

/-- Shifting the SSID byte down and masking drops the marker and the final bit. A closed fact of 512
operands. -/
theorem idByte_ssidByte : ∀ (id : Byte) (final : Bool),
    idByte ((ssidByte id final >>> 1).setWidth 4) = id &&& 0xF := by
  decide

theorem idByte_fieldId_addrEncode (c : Bytes) (id : Byte) (final : Bool) :
    idByte (fieldId (addrEncode c id final)) = id &&& 0xF := by
  have hssid : (addrEncode c id final).getD Config.callLen 0 = ssidByte id final := by
    rw [Config.callLen, List.getD_eq_getElem?_getD, getElem?_addrEncode_ssid, Option.getD_some]
  rw [fieldId, hssid, idByte_ssidByte]

theorem and_fifteen_of_le {id : Byte} (h : id ≤ 15) : id &&& 0xF = id := by
  revert id
  decide

end RoundTrip

end Sys2Proof.Machine
end

section
/-! The statements of spec/42_address.md, settled. -/

namespace Sys2Proof.Machine

/-- Settles O12: the bytes by their offset. -/
theorem addressFieldLayout : Obligations.AddressFieldLayout :=
  fun c id final => ⟨length_addrEncode c id final, fun _ hk => getElem?_addrEncode_call c id final hk,
    getElem?_addrEncode_ssid c id final⟩

/-- Settles O13: a shifted byte has no bit 0, and the SSID byte has its fixed bits. -/
theorem addressFieldFixedBits : Obligations.AddressFieldFixedBits := by
  refine fun c id final b => ⟨fun k hk hb => ?_, fun hb => ?_⟩
  · rw [getElem?_addrEncode_call c id final hk] at hb
    cases hb
    simp
  · rw [getElem?_addrEncode_ssid] at hb
    cases hb
    obtain ⟨h7, h6, h5, h0⟩ := ssidByte_fixedBits id final
    exact ⟨h7, h6, h5, h0, ssidByte_bounds id final⟩

/-- Settles O14: seven bytes hold every callsign position. -/
theorem addressFieldDecoding : Obligations.AddressFieldDecoding :=
  fun f hf => ⟨length_fieldCall_le f, fun k hk => (getD_fieldCall f hk (by omega)).symm,
    getLast?_fieldCall_ne f, toNat_fieldId f⟩

/-- Settles O15: printable callsigns come back as far as they are encoded, and what comes back is short,
7-bit and without a space at its end. -/
theorem addressRoundTrip : Obligations.AddressRoundTrip := by
  refine ⟨fun c id final ⟨hlen, hc⟩ hid => ⟨?_, ?_⟩,
    fun c id final _ hc => fieldCall_addrEncode_of_printable hc id final, fun c id final hbad h => ?_⟩
  · rw [fieldCall_addrEncode_of_printable hc, List.take_of_length_le hlen]
  · rw [idByte_fieldId_addrEncode, and_fifteen_of_le hid]
  · obtain ⟨hlen, hascii, hlast⟩ := callsign_of_fieldCall_eq h
    obtain hspace | ⟨b, hb, hhigh⟩ | hlong := hbad
    · exact hlast hspace
    · exact absurd (BitVec.le_trans hhigh (hascii b hb)) (by decide)
    · omega

/-- Settles O16: a missing position holds the space shifted up, and the codec reads six bytes. -/
theorem addressPaddingAndTruncation : Obligations.AddressPaddingAndTruncation := by
  refine ⟨fun c id final k hc hk => ?_, fun c id final hc hascii hlast => ?_, fun c id final _ => ?_⟩
  · rw [getElem?_addrEncode_call c id final hk, List.getD_eq_default c space hc]
    rfl
  · have htake : c.take 6 = c := List.take_of_length_le hc.le
    calc fieldCall (addrEncode c id final)
        = c.take 6 := fieldCall_addrEncode_eq_take (htake.symm ▸ hascii) (htake.symm ▸ hlast) id final
      _ = c := htake
  · rw [addrEncode, addrEncode, callsign6_take]

/-- Settles O17: the command answers from its operands alone. -/
theorem addrencCommand : Obligations.AddrencCommand :=
  fun _ _ _ _ => ⟨rfl, rfl⟩

/-- Settles O18: the command answers from its operand alone; the bounds are those of any field. -/
theorem addrdecCommand : Obligations.AddrdecCommand :=
  fun field _ _ => ⟨rfl, rfl, length_fieldCall_le field, fun _ => le_of_mem_fieldCall field,
    idByte_le _⟩

end Sys2Proof.Machine
end

section
/-! SUPPORT. What the writes of a build leave in the granted buffer, and the frame as the allocator's
answer lets it out (spec/43_frame_build.md R141 to R144). -/

namespace Sys2Proof.Machine

section Frame

variable (dc : Bytes) (di : Byte) (sc : Bytes) (si : Byte) (info : Bytes)

/-- R143: a flag, the body, two checksum bytes and a flag. -/
@[simp] theorem length_assemble : (assemble dc di sc si info).length = 20 + info.length := by
  simp [assemble, u16Field]
  omega

/-- The three writes behind what is already written (R141). -/
theorem writeTail_append (a b : Bytes) (k : Nat) (c : U16) (h : k = a.length) :
    writeTail (a ++ b) k c = a ++ u16Field c ++ [Config.flag] ++ b.drop 3 := by
  unfold writeTail
  rw [memWrite_append a b _ _ h, memWrite_append _ _ _ _ (by simp [h]),
    memWrite_append _ _ _ _ (by simp [h])]
  simp [u16Field, List.drop_drop]

variable {buf : Bytes}

/-- R142: the checksum of the bytes at the offsets 1 to 16 + N of the buffer is that of the body. -/
theorem slice_writeBody :
    slice (writeBody buf dc di sc si info) 1 (17 + info.length) = frameBody dc di sc si info := by
  rw [writeBody_eq]
  exact slice_append_middle _ _ _ _ _ rfl (by simp; omega)

/-- R141: the writes leave the frame, and behind it what the buffer held there. -/
theorem writeFrame_eq_append : writeFrame buf dc di sc si info =
    assemble dc di sc si info ++ buf.drop (20 + info.length) := by
  unfold writeFrame
  rw [slice_writeBody, writeBody_eq, writeTail_append _ _ _ _ (by simp; omega), List.drop_drop,
    show 17 + info.length + 3 = 20 + info.length by omega]
  rfl

theorem writeFrame_eq_assemble (h : buf.length = 20 + info.length) :
    writeFrame buf dc di sc si info = assemble dc di sc si info := by
  rw [writeFrame_eq_append, ← h, List.drop_length, List.append_nil]

end Frame

/-- R144: a grant has the size of the frame, so the answer holds the assembled frame. -/
theorem buildFrame_of_granted_assemble {dc : Bytes} {di : Byte} {sc : Bytes} {si : Byte} {info : Bytes}
    {s : State} {rest : List AllocAnswer} (ha : s.allocator = .granted :: rest) :
    buildFrame dc di sc si info s =
      .next (({ s.emit (.request (20 + info.length)) with
          allocator := rest, draws := s.draws + 1 }.notify .frameBuilt).answerOk
        (blobBytes (assemble dc di sc si info))) := by
  rw [buildFrame_of_granted ha, writeFrame_eq_assemble _ _ _ _ _ (length_freshBuffer _ _)]

/-- R145: BUILDCFG without overlapping setters is BUILD of the registers. -/
theorem exec_buildcfg_of_serialized {s : State} (hs : s.Serialized) (info : Bytes) :
    exec (.buildcfg info) s = exec (.build s.cfg.dstCall (s.cfg.dstId.setWidth 8) s.cfg.srcCall
      (s.cfg.srcId.setWidth 8) info) s := by
  rw [exec_buildcfg_eq_build, snapshot_of_serialized s hs]

end Sys2Proof.Machine
end

section
/-! The statements of spec/43_frame_build.md, settled. -/

namespace Sys2Proof.Machine

/-- Settles O19: the frame is as long as the buffer, so nothing the buffer held is left. -/
theorem writtenBufferIsAssembledFrame : Obligations.WrittenBufferIsAssembledFrame :=
  fun _ dc di sc si info h => writeFrame_eq_assemble dc di sc si info h

/-- Settles O20, from the lengths of the frame's parts. -/
theorem assembledFrameLength : Obligations.AssembledFrameLength := length_assemble

/-- Settles O22: request, event and response in the order of the build's outputs. -/
theorem buildGranted : Obligations.BuildGranted :=
  fun _ _ _ _ _ s _ ha => ⟨rfl, _, Config.eventDetails (s.draws + 1),
    buildFrame_of_granted_assemble ha, ⟨rfl, rfl, rfl⟩, rfl, rfl, by simp⟩

/-- Settles O23: request, event and the bare status byte. -/
theorem buildAllocationFailed : Obligations.BuildAllocationFailed :=
  fun _ _ _ _ _ s _ ha => ⟨_, Config.eventDetails s.draws, buildFrame_of_failed ha,
    ⟨rfl, rfl, rfl⟩, rfl, rfl, by simp [Status.code]⟩

/-- Settles O26: without overlap the snapshot is the registers. -/
theorem buildcfgIsBuildOfRegisters : Obligations.BuildcfgIsBuildOfRegisters :=
  fun info _ hs => exec_buildcfg_of_serialized hs info

/-- Settles O24: serialized, it is BUILD of the registers, and BUILD is granted. -/
theorem buildcfgGranted : Obligations.BuildcfgGranted := by
  intro info s rest hs ha
  rw [exec_buildcfg_of_serialized hs]
  exact ⟨rfl, (buildGranted _ _ _ _ info s rest ha).2⟩

/-- Settles O25: whatever the snapshot holds, it is a BUILD whose allocation failed. -/
theorem buildcfgAllocationFailed : Obligations.BuildcfgAllocationFailed := by
  intro info s rest ha
  rw [exec_buildcfg_eq_build]
  exact buildAllocationFailed _ _ _ _ info s rest ha

/-- Settles O31: the fields of an assembled frame at N = 20, the two addresses by evaluation. -/
theorem endToEndScenarioFrame : Obligations.EndToEndScenarioFrame := by
  intro t0 t1 t2 t3 v0 v1 v2 v3 s rest info ha hinfo
  have hlen : info.length = 20 := by rw [hinfo]; rfl
  obtain ⟨-, t, details, hexec, -, -, -, hout⟩ :=
    buildGranted [0x43, 0x51] 0 [0x4E, 0x30, 0x43, 0x41, 0x4C, 0x4C] 0 info s rest ha
  obtain ⟨hopen, hdst, hsrc, hcontrol, hpid, hbody, hcrcLow, hcrcHigh, hclose⟩ :=
    assembledFrameLayout [0x43, 0x51] 0 [0x4E, 0x30, 0x43, 0x41, 0x4C, 0x4C] 0 info _ rfl
  have hresponse : t.responses = s.responses ++
      [0x00 :: blobBytes (assemble [0x43, 0x51] 0 [0x4E, 0x30, 0x43, 0x41, 0x4C, 0x4C] 0 info)] := by
    simp [State.responses, hout]
  rw [hlen] at hbody hcrcLow hcrcHigh hclose
  exact ⟨t, _, hexec, hresponse, by rw [length_assemble, hlen], hopen, hclose, hdst, hsrc, hcontrol,
    hpid, hbody, hcrcLow, hcrcHigh⟩

end Sys2Proof.Machine
end

section
/-! SUPPORT. The two checksum bytes of a frame, what PARSE answers when the checks its options ask for
pass, and the checks and fields of an assembled frame (spec/44_frame_parse.md R160 to R166, R169). -/

namespace Sys2Proof.Machine

/-! ### A 16-bit value from two bytes (R164, R43) -/

theorem toNat_eq_lowByte_add_highByte (c : U16) :
    c.toNat = (lowByte c).toNat + 256 * (highByte c).toNat := by
  simp [lowByte, highByte, Nat.shiftRight_eq_div_pow]
  omega

theorem toNat_u16OfBytes (lo hi : Byte) : (u16OfBytes lo hi).toNat = lo.toNat + 256 * hi.toNat := by
  rw [toNat_eq_lowByte_add_highByte, lowByte_u16OfBytes, highByte_u16OfBytes]

/-- A 16-bit value is put together again from its two bytes. -/
theorem u16OfBytes_lowByte_highByte (c : U16) : u16OfBytes (lowByte c) (highByte c) = c := by
  apply BitVec.eq_of_toNat_eq
  rw [toNat_u16OfBytes, ← toNat_eq_lowByte_add_highByte]

theorem receivedCrc_append (f : Bytes) (lo hi b : Byte) :
    receivedCrc (f ++ [lo, hi, b]) = u16OfBytes lo hi := by
  simp [receivedCrc, frameByte]

/-! ### A frame that passes its checks -/

section Accepted

variable {f : Bytes} {s : State} (hlen : 20 ≤ f.length) (hopen : f.head? = some 0x7E)
  (hclose : f.getLast? = some 0x7E)
  (hverify : s.opt.getLsbD 0 = true → crc16 ((f.drop 1).take (f.length - 4)) = receivedCrc f)
  (hstrict : s.opt.getLsbD 1 = true → f[15]? = some 0x03 ∧ f[16]? = some 0xF0)

include hlen hopen hclose hverify hstrict

/-- R160, R210: no step fails when the checks the options ask for pass. -/
theorem parseFrame_of_checks : parseFrame s.opt f = .ok (parsedFrame f) := by
  have hlong : ¬ f.length < Config.minFrameLen := Nat.not_lt.2 hlen
  have hframed : ¬ framed f = false :=
    ne_false_of_eq_true ((framed_iff f (List.ne_nil_of_length_pos (by omega))).2 ⟨hopen, hclose⟩)
  have hcrc : ¬ (optVerify s.opt = true ∧ recomputedCrc f ≠ receivedCrc f) :=
    fun ⟨hv, hne⟩ => hne (hverify hv)
  have hfixed : ¬ (optStrict s.opt = true ∧ fixedControlPid f = false) := fun ⟨hs, hne⟩ =>
    ne_false_of_eq_true ((fixedControlPid_iff f (by omega)).2 (hstrict hs)) hne
  rw [parseFrame, if_neg hlong, if_neg hframed, if_neg hcrc, if_neg hfixed]

/-- R160: the event, then the fields of the frame. -/
theorem exec_parse_of_checks : exec (.parse (some f)) s =
    .next ((s.notify .frameReceived).answerOk (parsedFields (parsedFrame f))) := by
  simp only [exec, execParse, parseFrame_of_checks hlen hopen hclose hverify hstrict]

end Accepted

/-! ### An assembled frame passes them, and its fields (R169) -/

section Assembled

variable (dc : Bytes) (di : Byte) (sc : Bytes) (si : Byte) (info : Bytes)

theorem head?_assemble : (assemble dc di sc si info).head? = some Config.flag := rfl

theorem getLast?_assemble : (assemble dc di sc si info).getLast? = some Config.flag :=
  List.getLast?_concat

/-- The bytes before the closing flag are the checksum the build took over the body (R142). -/
theorem receivedCrc_assemble :
    receivedCrc (assemble dc di sc si info) = crc16 (frameBody dc di sc si info) := by
  rw [assemble, List.append_assoc]
  exact (receivedCrc_append _ _ _ _).trans (u16OfBytes_lowByte_highByte _)

theorem crc16_body_assemble :
    crc16 (((assemble dc di sc si info).drop 1).take ((assemble dc di sc si info).length - 4)) =
      receivedCrc (assemble dc di sc si info) := by
  have hbody : (assemble dc di sc si info).length - 4 = 16 + info.length := by
    rw [length_assemble]; omega
  rw [hbody, assemble_body, receivedCrc_assemble]

theorem parsedFrame_assemble : parsedFrame (assemble dc di sc si info) =
    { dstCall := fieldCall (addrEncode dc di false), dstId := fieldId (addrEncode dc di false)
      srcCall := fieldCall (addrEncode sc si true), srcId := fieldId (addrEncode sc si true)
      info := info } := by
  have hdst : slice (assemble dc di sc si info) 1 8 = addrEncode dc di false :=
    assemble_dst dc di sc si info
  have hsrc : slice (assemble dc di sc si info) 8 15 = addrEncode sc si true :=
    assemble_src dc di sc si info
  have hinfo : slice (assemble dc di sc si info) 17
      ((assemble dc di sc si info).length - 3) = info := by
    rw [slice, length_assemble, show 20 + info.length - 3 - 17 = info.length by omega, assemble_info]
  rw [parsedFrame, hdst, hsrc, hinfo]

/-- R169: PARSE accepts an assembled frame whatever its options ask for. -/
theorem exec_parse_assemble (s : State) :
    exec (.parse (some (assemble dc di sc si info))) s =
      .next ((s.notify .frameReceived).answerOk
        (parsedFields (parsedFrame (assemble dc di sc si info)))) :=
  exec_parse_of_checks (by rw [length_assemble]; omega) (head?_assemble dc di sc si info)
    (getLast?_assemble dc di sc si info) (fun _ => crc16_body_assemble dc di sc si info)
    (fun _ => ⟨assemble_control dc di sc si info, assemble_pid dc di sc si info⟩)

variable {dc : Bytes} {di : Byte} {sc : Bytes} {si : Byte}

/-- R169: with callsigns and ids that the address codec gives back, so does PARSE. -/
theorem parsedFields_assemble (hdc : RoundTripCall dc) (hsc : RoundTripCall sc) (hdi : di ≤ 15)
    (hsi : si ≤ 15) : parsedFields (parsedFrame (assemble dc di sc si info)) =
      blobBytes dc ++ [di] ++ blobBytes sc ++ [si] ++ blobBytes info := by
  obtain ⟨hroundTrip, -, -⟩ := addressRoundTrip
  obtain ⟨hdstCall, hdstId⟩ := hroundTrip dc di false hdc hdi
  obtain ⟨hsrcCall, hsrcId⟩ := hroundTrip sc si true hsc hsi
  rw [parsedFrame_assemble, parsedFields, hdstCall, hdstId, hsrcCall, hsrcId]

end Assembled

end Sys2Proof.Machine
end

section
/-! The statements of spec/44_frame_parse.md, settled. -/

namespace Sys2Proof.Machine

/-- Settles O34: the fields of the frame are its slices at the fixed offsets. -/
theorem parseAccepts : Obligations.ParseAccepts :=
  fun s _ hlen hopen hclose hverify hstrict => ⟨rfl, _, Config.eventDetails s.draws,
    exec_parse_of_checks hlen hopen hclose hverify hstrict, ⟨rfl, rfl, rfl⟩, rfl, rfl,
    List.append_assoc _ _ _⟩

/-- Settles O35: the two bytes are put together low byte first. -/
theorem receivedChecksumBytes : Obligations.ReceivedChecksumBytes := by
  refine fun f lo hi b c => ⟨?_, ?_⟩
  · rw [receivedCrc_append, toNat_u16OfBytes]
  · rw [receivedCrc_append]
    exact u16OfBytes_lowByte_highByte c

/-- Settles O36: an assembled frame passes every check, and the address codec gives its operands back;
with both options off only the length and the flags are checked. -/
theorem buildParseRoundTrip : Obligations.BuildParseRoundTrip := by
  refine ⟨fun dc di sc si info s hdc hsc hdi hsi => ?_, fun f s hlen hopen hclose hverify hstrict => ?_⟩
  · refine ⟨_, Config.eventDetails s.draws, exec_parse_assemble dc di sc si info s, ⟨rfl, rfl, rfl⟩, ?_⟩
    rw [parsedFields_assemble info hdc hsc hdi hsi]
    exact List.append_assoc _ _ _
  · exact ⟨_, Config.eventDetails s.draws, _,
      exec_parse_of_checks hlen hopen hclose (fun hv => absurd (hverify.symm.trans hv) Bool.false_ne_true)
        (fun hs => absurd (hstrict.symm.trans hs) Bool.false_ne_true),
      List.append_assoc _ _ _⟩

end Sys2Proof.Machine
end

section
/-! SUPPORT. What a setter stores of its operands, and that the command port stays serialized across a
command (spec/45_config.md R181 to R184, spec/20_memory.md R51). -/

namespace Sys2Proof.Machine

/-! ### The stored forms (R182, R184) -/

/-- Masking with 0xF drops nothing that the four bits of an id register hold. -/
theorem maskId_eq_setWidth_and (id : Byte) : maskId id = (id &&& 0xF).setWidth 4 := by
  revert id
  decide

/-- A stored id, read back as a byte, is the operand's low four bits. -/
theorem setWidth_maskId (id : Byte) : (maskId id).setWidth 8 = id &&& 0xF := by
  revert id
  decide

theorem getLsbD_optsByte (verify strict : Bool) :
    (optsByte verify strict).getLsbD 0 = verify ∧ (optsByte verify strict).getLsbD 1 = strict := by
  revert verify strict
  decide

/-! ### Setters and a serialized BUILDCFG (R24, R180) -/

section
variable {s t u : State}

/-- Whether setters overlap the command at the head of the port is a fact about the port alone. -/
theorem State.Serialized.of_port_eq (hs : s.Serialized) (hport : t.port = s.port) : t.Serialized := by
  unfold State.Serialized State.race
  rw [hport]
  exact hs

theorem State.Serialized.of_exec {i : Instr} (hs : s.Serialized) (h : exec i s = .next t) :
    t.Serialized := by
  obtain ⟨-, -, -, hport⟩ := exec_eq_next h
  exact hs.of_port_eq hport

/-- SETDST and SETSRC together write all four StationConfig registers. -/
theorem cfg_of_setdst_setsrc {dcall scall : Bytes} {did sid : Byte}
    (ht : exec (.setdst dcall did) s = .next t) (hu : exec (.setsrc scall sid) t = .next u) :
    u.cfg = { srcCall := storedCall scall, srcId := maskId sid,
              dstCall := storedCall dcall, dstId := maskId did } := by
  obtain ⟨htcfg, -, -, -⟩ := exec_eq_next ht
  obtain ⟨hucfg, -, -, -⟩ := exec_eq_next hu
  rw [hucfg, htcfg]
  rfl

end

end Sys2Proof.Machine
end

section
/-! The statements of spec/45_config.md, settled. -/

namespace Sys2Proof.Machine

/-- Settles O41: the registers hold what the address codec reads of the operands. -/
theorem setterSeenByNextBuildcfg : Obligations.SetterSeenByNextBuildcfg := by
  intro dcall did scall sid info s t u hs ht hu
  have hserialized : u.Serialized := (hs.of_exec ht).of_exec hu
  calc exec (.buildcfg info) u
      = exec (.build (storedCall dcall) ((maskId did).setWidth 8) (storedCall scall)
          ((maskId sid).setWidth 8) info) u := by
        rw [exec_buildcfg_of_serialized hserialized, cfg_of_setdst_setsrc ht hu]
    _ = exec (.build (dcall.take 6) (did &&& 0xF) (scall.take 6) (sid &&& 0xF) info) u := by
        rw [storedCall_eq_take, storedCall_eq_take, setWidth_maskId, setWidth_maskId]
    _ = exec (.build dcall did scall sid info) u :=
        truncatedAddressingIsIndistinguishable dcall did scall sid info u

/-- Settles O38: masking the id before storing it changes nothing. -/
theorem setsrcCommand : Obligations.SetsrcCommand := by
  intro call id s
  rw [← maskId_eq_setWidth_and]
  exact ⟨rfl, rfl⟩

/-- Settles O39: masking the id before storing it changes nothing. -/
theorem setdstCommand : Obligations.SetdstCommand := by
  intro call id s
  rw [← maskId_eq_setWidth_and]
  exact ⟨rfl, rfl⟩

/-- Settles O40: the operand byte is the one the register takes, with bits 7:2 zero. -/
theorem setoptCommand : Obligations.SetoptCommand := by
  intro verify strict s
  obtain ⟨hverify, hstrict⟩ := getLsbD_optsByte verify strict
  exact ⟨optsByte verify strict, rfl, rfl, hverify, hstrict,
    fun k hk => getLsbD_of_reserved (optsByte_reserved verify strict) hk,
    fun _ hr => congrArg Except.toOption (decode_setopt_reserved hr [])⟩

end Sys2Proof.Machine
end

section
/-! SUPPORT. The status codes told apart, which check of PARSE fails for which status, every way a command
can end with the outputs it leaves, and the adapter's acts by the block's answer
(spec/60_exceptions.md R203 to R210, R224 to R226). -/

namespace Sys2Proof.Machine

/-! ### Status codes (R76) -/

/-- No two statuses share a byte. -/
theorem Status.code_injective : Function.Injective Status.code := by
  intro a b h
  cases a <;> cases b <;> simp_all [Status.code]

theorem Status.code_ne_zero {st : Status} (h : st ≠ .ok) : st.code ≠ 0x00 :=
  Status.code_injective.ne (a₂ := .ok) h

/-! ### The errors of PARSE (R210) -/

section ParseErrors

variable {opt : Byte} {f : Bytes} {s t : State} {st : Status}

/-- The status of a frame is that of a check that fails, every earlier one passed or disabled: each
branch of the definition is one of the four. -/
theorem parseFrame_eq_error_iff : parseFrame opt f = .error st ↔
    (st = .frameTooShort ∧ f.length < 20) ∨
    (st = .invalidFraming ∧ 20 ≤ f.length ∧ framed f = false) ∨
    (st = .checksumMismatch ∧ 20 ≤ f.length ∧ framed f = true ∧ optVerify opt = true ∧
      recomputedCrc f ≠ receivedCrc f) ∨
    (st = .unexpectedControlOrPid ∧ 20 ≤ f.length ∧ framed f = true ∧
      (optVerify opt = false ∨ recomputedCrc f = receivedCrc f) ∧ optStrict opt = true ∧
      fixedControlPid f = false) := by
  unfold parseFrame Config.minFrameLen
  split_ifs with hshort hunframed hcrc hfixed <;> grind

/-- R206: the checksum rejects a frame only with VERIFY on. -/
theorem verify_of_checksumMismatch (h : parseFrame opt f = .error .checksumMismatch) :
    optVerify opt = true := by
  obtain ⟨hst, -⟩ | ⟨hst, -⟩ | ⟨-, -, -, hverify, -⟩ | ⟨hst, -⟩ := parseFrame_eq_error_iff.1 h
  · cases hst
  · cases hst
  · exact hverify
  · cases hst

/-- R207: control and PID reject a frame only with STRICT on. -/
theorem strict_of_unexpectedControlOrPid (h : parseFrame opt f = .error .unexpectedControlOrPid) :
    optStrict opt = true := by
  obtain ⟨hst, -⟩ | ⟨hst, -⟩ | ⟨hst, -⟩ | ⟨-, -, -, -, hstrict, -⟩ := parseFrame_eq_error_iff.1 h
  · cases hst
  · cases hst
  · cases hst
  · exact hstrict

/-- No frame is refused with OK, nor for an allocation, of which PARSE makes none. -/
theorem status_ne_of_parseFrame_error (h : parseFrame opt f = .error st) :
    st ≠ .ok ∧ st ≠ .allocationFailure := by
  obtain ⟨rfl, -⟩ | ⟨rfl, -⟩ | ⟨rfl, -⟩ | ⟨rfl, -⟩ := parseFrame_eq_error_iff.1 h <;> decide

theorem exec_parse_of_error (h : parseFrame s.opt f = .error st) :
    exec (.parse (some f)) s = .next (s.raise st) := by
  simp only [exec, execParse, h]

theorem exec_parse_of_ok {p : ParsedFrame} (h : parseFrame s.opt f = .ok p) :
    exec (.parse (some f)) s = .next ((s.notify .frameReceived).answerOk (parsedFields p)) := by
  simp only [exec, execParse, h]

/-- A status PARSE answers, other than OK and InvalidInput, is that of its frame. -/
theorem parseFrame_eq_error_of_responses {frame : Option Bytes}
    (h : exec (.parse frame) s = .next t) (hr : t.responses = s.responses ++ [[st.code]])
    (hok : st ≠ .ok) (hinput : st ≠ .invalidInput) :
    ∃ f, frame = some f ∧ parseFrame s.opt f = .error st := by
  have hcode : parseResponse s.opt frame = [st.code] := by
    simpa using (execParse_responses h).symm.trans hr
  obtain ⟨rfl, -⟩ | ⟨f, st', rfl, hp, -⟩ | ⟨f, p, rfl, hp, -⟩ := execParse_cases frame s
  · simp only [parseResponse, List.cons.injEq, and_true] at hcode
    exact absurd (Status.code_injective hcode).symm hinput
  · simp only [parseResponse, hp, List.cons.injEq, and_true] at hcode
    exact ⟨f, rfl, Status.code_injective hcode ▸ hp⟩
  · simp only [parseResponse, hp, List.cons.injEq] at hcode
    exact absurd hcode.1.symm (Status.code_ne_zero hok)

end ParseErrors

/-! ### Every end of a command (R75, R209, R224) -/

/-- What one command leaves at the ports, by the status it ends with: the request and the event of a
build, the event of an accepted frame, and always one response. Tied to the model by `step_endsOnce`. -/
inductive EndOutputs : Status → List Output → Prop
  | answered (fields : Bytes) : EndOutputs .ok [.response (0x00 :: fields)]
  | received (details fields : Bytes) :
    EndOutputs .ok [.event .frameReceived details, .response (0x00 :: fields)]
  | built (size : Nat) (details fields : Bytes) :
    EndOutputs .ok [.request size, .event .frameBuilt details, .response (0x00 :: fields)]
  | allocationFailed (size : Nat) (details : Bytes) :
    EndOutputs .allocationFailure
      [.request size, .event .allocationFailed details, .response [0x01]]
  | refused {st : Status} (hok : st ≠ .ok) (halloc : st ≠ .allocationFailure) :
    EndOutputs st [.response [st.code]]

/-- The second state has the outputs of one command more than the first and, where that command ended
with an error, its registers. -/
def EndsOnce (s t : State) : Prop :=
  ∃ (st : Status) (new : List Output), EndOutputs st new ∧ t.outputs = s.outputs ++ new ∧
    (st ≠ .ok → SameRegisters s t)

section Ends

variable {s t : State}

theorem endsOnce_raise {st : Status} (hok : st ≠ .ok) (halloc : st ≠ .allocationFailure) :
    EndsOnce s (s.raise st) :=
  ⟨st, _, .refused hok halloc, rfl, fun _ => ⟨rfl, rfl, rfl⟩⟩

theorem buildFrame_endsOnce {dc : Bytes} {di : Byte} {sc : Bytes} {si : Byte} {info : Bytes}
    (h : buildFrame dc di sc si info s = .next t) : EndsOnce s t := by
  obtain ⟨rest, -, rfl⟩ | ⟨rest, -, rfl⟩ := buildFrame_eq_next h
  · exact ⟨_, _, .allocationFailed (20 + info.length) (Config.eventDetails s.draws),
      by simp [Status.code], fun _ => ⟨rfl, rfl, rfl⟩⟩
  · exact ⟨_, _, .built (20 + info.length) (Config.eventDetails (s.draws + 1))
        (blobBytes (writeFrame (freshBuffer s.draws (20 + info.length)) dc di sc si info)),
      by simp, fun hok => absurd rfl hok⟩

theorem execParse_endsOnce {frame : Option Bytes} (h : execParse frame s = .next t) :
    EndsOnce s t := by
  obtain ⟨-, hs⟩ | ⟨f, st, -, hp, hs⟩ | ⟨f, p, -, -, hs⟩ := execParse_cases frame s <;>
    cases hs.symm.trans h
  · exact endsOnce_raise (by decide) (by decide)
  · obtain ⟨hok, halloc⟩ := status_ne_of_parseFrame_error hp
    exact endsOnce_raise hok halloc
  · exact ⟨_, _, .received (Config.eventDetails s.draws) _, List.append_assoc _ _ _,
      fun hok => absurd rfl hok⟩

theorem exec_endsOnce {i : Instr} (h : exec i s = .next t) : EndsOnce s t := by
  cases i with
  | build | buildcfg => exact buildFrame_endsOnce h
  | parse => exact execParse_endsOnce h
  | crc16 | addrenc | addrdec | setsrc | setdst | setopt =>
    cases h
    exact ⟨_, _, .answered _, rfl, fun hok => absurd rfl hok⟩

/-- A step that takes a descriptor from the port ends as its command does, or refuses it (R74). -/
theorem step_endsOnce {d : Bytes} {race : Race} {later : List HostInput}
    (hp : s.port = .command d race :: later) (h : step s = .next t) : EndsOnce s t := by
  obtain ⟨hp', -⟩ | ⟨_, hp', -⟩ | ⟨_, hp', -⟩ | ⟨_, _, _, -, -, hcmd⟩ := runPort_eq_next h
  · simp [hp] at hp'
  · simp [hp] at hp'
  · simp [hp] at hp'
  · obtain ⟨-, rfl⟩ | ⟨i, u, -, hu, rfl⟩ := hcmd
    · exact (endsOnce_raise (by decide) (by decide) : EndsOnce s (s.raise .illegalCommand))
    · exact (exec_endsOnce hu :)

end Ends

/-! ### The adapter (R225, R226) -/

section Adapter

variable {i : Instr} {s t : State} {st : Status} {payload raw : Bytes}
  {holdsPayload transmitOk : Bool}

theorem issue_of_fault (hf : s.fault = true) : issue i s = .fault .contractViolation := by
  simpa [hf] using issue_cases i s

theorem issue_of_wf (hf : s.fault = false) (hwf : i.wf = true) : issue i s = exec i s := by
  simpa [hf, hwf] using issue_cases i s

theorem issue_of_not_wf (hf : s.fault = false) (hwf : i.wf = false) :
    issue i s = .next (s.raise .illegalCommand) := by
  simpa [hf, hwf] using issue_cases i s

/-- What left the block last is the response the adapter acts on. -/
theorem State.lastResponse_of_getLast? {r : Bytes} (h : t.outputs.getLast? = some (.response r)) :
    t.lastResponse = r := by
  obtain ⟨earlier, hout⟩ := List.getLast?_eq_some_iff.1 h
  simp [State.lastResponse, State.responses, hout]

/-- The frame comes back out of the response that delivers it (R77). -/
theorem frameOfResponse_blobBytes {frame : Bytes} (h : frame.length ≤ 4294967295) :
    frameOfResponse (0x00 :: blobBytes frame) = some frame := by
  have hread : readBlob (blobBytes frame) = .ok (frame, []) := by
    simpa using readBlob_blobBytes frame [] h
  change frameOfResponse (0x00#8 :: blobBytes frame) = some frame
  simp only [frameOfResponse, hread]

/-- No answer, no acts (R239, R30). -/
theorem transmitPath_of_fault {e : Fault} (h : issue (.buildcfg payload) s = .fault e) :
    transmitPath payload holdsPayload transmitOk s = none := by
  simp only [transmitPath, h]

/-- R225, on OK. -/
theorem transmitPath_of_frame {frame : Bytes} (h : issue (.buildcfg payload) s = .next t)
    (hlast : t.outputs.getLast? = some (.response (0x00 :: blobBytes frame)))
    (hlen : frame.length ≤ 4294967295) : transmitPath payload holdsPayload transmitOk s = some (t,
      [.transmit frame] ++ (if transmitOk then [] else [.notify .transmissionFailed]) ++
        [.release .frame]) := by
  simp only [transmitPath, h, State.lastResponse_of_getLast? hlast, transmitActs,
    frameOfResponse_blobBytes hlen]

/-- R225, on a failure. -/
theorem transmitPath_of_error (h : issue (.buildcfg payload) s = .next t)
    (hlast : t.outputs.getLast? = some (.response [st.code])) (hst : st ≠ .ok) :
    transmitPath payload holdsPayload transmitOk s = some (t,
      (if holdsPayload then [.release .payload] else []) ++ [.report st.code]) := by
  simp only [transmitPath, h, State.lastResponse_of_getLast? hlast]
  cases st with
  | ok => exact absurd rfl hst
  | _ => rfl

theorem receivePath_of_fault {e : Fault} (h : issue (.parse (some raw)) s = .fault e) :
    receivePath raw s = none := by
  simp only [receivePath, h]

/-- R226, on OK. -/
theorem receivePath_of_ok {fields : Bytes} (h : issue (.parse (some raw)) s = .next t)
    (hlast : t.outputs.getLast? = some (.response (0x00 :: fields))) :
    receivePath raw s = some (t, [.handOver fields, .release .received]) := by
  simp only [receivePath, h, State.lastResponse_of_getLast? hlast]
  rfl

/-- R226, on any other answer. -/
theorem receivePath_of_raise (h : issue (.parse (some raw)) s = .next (s.raise st))
    (hst : st ≠ .ok) : receivePath raw s = some (s.raise st, [.release .received]) := by
  have hlast : (s.raise st).outputs.getLast? = some (.response [st.code]) := by simp
  simp only [receivePath, h, State.lastResponse_of_getLast? hlast]
  cases st with
  | ok => exact absurd rfl hst
  | _ => rfl

end Adapter

end Sys2Proof.Machine
end

section
/-! The statements of spec/60_exceptions.md, settled. -/

namespace Sys2Proof.Machine

/-- Settles O33: in each clause the named check is the first that fails. -/
theorem parseErrorsInOrder : Obligations.ParseErrorsInOrder := by
  refine fun s => ⟨rfl, fun f => ⟨fun hshort => ?_, fun hlong hflags => ?_, fun hlong hopen hclose => ?_⟩⟩
  · exact exec_parse_of_error (st := .frameTooShort) (parseFrame_eq_error_iff.2 (.inl ⟨rfl, hshort⟩))
  · have hunframed : framed f = false := by
      rw [← Bool.not_eq_true, framed_iff f (List.ne_nil_of_length_pos (by omega)), not_and_or]
      exact hflags
    exact exec_parse_of_error (st := .invalidFraming)
      (parseFrame_eq_error_iff.2 (.inr (.inl ⟨rfl, hlong, hunframed⟩)))
  · have hframed : framed f = true :=
      (framed_iff f (List.ne_nil_of_length_pos (by omega))).2 ⟨hopen, hclose⟩
    refine ⟨fun hverify hcrc => ?_, fun hcrc hstrict hfields => ?_⟩
    · exact exec_parse_of_error (st := .checksumMismatch) (parseFrame_eq_error_iff.2
        (.inr (.inr (.inl ⟨rfl, hlong, hframed, hverify, hcrc⟩))))
    · have hunfixed : fixedControlPid f = false := by
        rw [← Bool.not_eq_true, fixedControlPid_iff f (by omega), not_and_or]
        exact hfields
      exact exec_parse_of_error (st := .unexpectedControlOrPid) (parseFrame_eq_error_iff.2
        (.inr (.inr (.inr ⟨rfl, hlong, hframed, hcrc, hstrict, hunfixed⟩))))

/-- Settles O37: a frame gets either status only with the option of its check on. -/
theorem disabledChecksNeverReported : Obligations.DisabledChecksNeverReported := by
  refine fun frame s t h => ⟨fun hoff hr => ?_, fun hoff hr => ?_⟩
  · obtain ⟨f, -, hp⟩ :=
      parseFrame_eq_error_of_responses (st := .checksumMismatch) h hr (by decide) (by decide)
    exact Bool.false_ne_true (hoff.symm.trans (verify_of_checksumMismatch hp))
  · obtain ⟨f, -, hp⟩ :=
      parseFrame_eq_error_of_responses (st := .unexpectedControlOrPid) h hr (by decide) (by decide)
    exact Bool.false_ne_true (hoff.symm.trans (strict_of_unexpectedControlOrPid hp))

/-- Settles O51: three ends of a command are OK; the other two write no register and say what they
emit. -/
theorem errorsWriteNoRegister : Obligations.ErrorsWriteNoRegister := by
  intro s t d race later status fields hp h hr hstatus
  obtain ⟨st, new, hend, hout, hregisters⟩ := step_endsOnce hp h
  cases hend with
  | answered okFields | received _ okFields | built _ _ okFields =>
    obtain ⟨hok, -⟩ : 0x00 = status ∧ okFields = fields := by simpa [State.responses, hout] using hr
    exact absurd hok.symm hstatus
  | allocationFailed size details =>
    obtain ⟨rfl, rfl⟩ : 0x01 = status ∧ [] = fields := by simpa [State.responses, hout] using hr
    exact ⟨hregisters (by decide), rfl, by simp [State.requests, hout],
      fun _ => ⟨details, by simp [State.events, hout]⟩, fun hne => absurd rfl hne⟩
  | refused hok halloc =>
    obtain ⟨rfl, rfl⟩ : st.code = status ∧ [] = fields := by
      simpa [State.responses, hout] using hr
    exact ⟨hregisters hok, rfl, by simp [State.requests, hout],
      fun hcode => absurd (Status.code_injective hcode) halloc, fun _ => by simp [State.events, hout]⟩

/-- Settles O52: each end of a command leaves its outputs in this order. -/
theorem outputsOfOneCommand : Obligations.OutputsOfOneCommand := by
  intro s t d race later hp h
  obtain ⟨st, new, hend, hout, -⟩ := step_endsOnce hp h
  cases hend with
  | answered fields => exact ⟨[], [], 0x00 :: fields, by simp [hout], by simp⟩
  | received details fields =>
    exact ⟨[], [(.frameReceived, details)], 0x00 :: fields, by simp [hout], by simp⟩
  | built size details fields =>
    exact ⟨[size], [(.frameBuilt, details)], 0x00 :: fields, by simp [hout], by simp⟩
  | allocationFailed size details =>
    exact ⟨[size], [(.allocationFailed, details)], [0x01], by simp [hout], by simp⟩
  | refused => exact ⟨[], [], [st.code], by simp [hout], by simp⟩

/-- Settles O57: by the fault mark, the length of the payload and the allocator's answer to the
BUILDCFG; a payload that fits makes a frame that a blob can hold. -/
theorem adapterTransmitPath : Obligations.AdapterTransmitPath := by
  refine fun payload holdsPayload transmitOk s =>
    ⟨fun hf => transmitPath_of_fault (issue_of_fault hf), fun hf hfits => ?_, fun hf hlong => ?_⟩
  · have hissue : issue (.buildcfg payload) s = exec (.buildcfg payload) s :=
      issue_of_wf hf ((infoFits_iff payload).2 hfits)
    refine ⟨fun ha => ?_, fun rest ha hs => ?_, fun rest ha => ?_⟩
    · exact transmitPath_of_fault (hissue.trans (buildFrame_eq_fault_iff.2 ⟨ha, rfl⟩))
    · obtain ⟨-, t, details, hexec, -, -, -, hout⟩ := buildcfgGranted payload s rest hs ha
      exact ⟨t, transmitPath_of_frame (hissue.trans hexec) (by simp [hout])
        (by rw [length_assemble]; omega)⟩
    · obtain ⟨t, details, hexec, -, -, -, hout⟩ := buildcfgAllocationFailed payload s rest ha
      exact ⟨t, transmitPath_of_error (st := .allocationFailure) (hissue.trans hexec)
        (by simp [hout, Status.code]) (by decide)⟩
  · have hissue : issue (.buildcfg payload) s = .next (s.raise .illegalCommand) :=
      issue_of_not_wf hf (decide_eq_false (Nat.not_le.2 hlong))
    exact transmitPath_of_error (st := .illegalCommand) hissue (by simp [Status.code]) (by decide)

/-- Settles O58: by the fault mark, the length of the frame and PARSE's answer. -/
theorem adapterReceivePath : Obligations.AdapterReceivePath := by
  refine fun raw s => ⟨fun hf => receivePath_of_fault (issue_of_fault hf), fun hf => ?_⟩
  by_cases hfits : raw.length ≤ 2 ^ 32 - 1
  · have hissue : issue (.parse (some raw)) s = exec (.parse (some raw)) s :=
      issue_of_wf hf ((blobFits_iff raw).2 hfits)
    cases hp : parseFrame s.opt raw with
    | error st =>
      have hexec := exec_parse_of_error hp
      obtain ⟨hok, -⟩ := status_ne_of_parseFrame_error hp
      exact ⟨_, [st.code], State.responses_raise s st, fun _ => hexec, fun hlong => by omega,
        .inr ⟨by simpa using Status.code_ne_zero hok, receivePath_of_raise (hissue.trans hexec) hok⟩⟩
    | ok p =>
      have hexec := exec_parse_of_ok hp
      exact ⟨_, 0x00 :: parsedFields p, by simp, fun _ => hexec, fun hlong => by omega,
        .inl ⟨_, rfl, receivePath_of_ok (hissue.trans hexec) (by simp)⟩⟩
  · have hissue : issue (.parse (some raw)) s = .next (s.raise .illegalCommand) :=
      issue_of_not_wf hf (decide_eq_false hfits)
    exact ⟨_, [0x07], State.responses_raise s _, fun hle => absurd hle hfits, fun _ => rfl,
      .inr ⟨by decide, receivePath_of_raise hissue (by decide)⟩⟩

/-- Settles O44: nothing waits, and there is no fault mark to stop at. -/
theorem idleKeepsState : Obligations.IdleKeepsState := by
  intro s hp hf
  simp [step, runPort, hp, hf]

end Sys2Proof.Machine
end

section
/-! SUPPORT. A reset at the command port, and which commands go on to a next state. -/

namespace Sys2Proof.Machine

/-- A reset is taken with or without the fault mark (R230). -/
theorem runPort_of_reset {run : Instr → State → Host.Outcome State Fault Refusal}
    {s : State} {later : List HostInput} (hp : s.port = .reset :: later) :
    runPort run s = .next s.takeReset.popPort := by
  simp [runPort, hp]

/-- R239: with any answer waiting, a build completes. -/
theorem exists_buildFrame_eq_next {s : State} (ha : s.allocator ≠ []) (dc : Bytes) (di : Byte)
    (sc : Bytes) (si : Byte) (info : Bytes) : ∃ t, buildFrame dc di sc si info s = .next t := by
  cases hcons : s.allocator with
  | nil => exact absurd hcons ha
  | cons answer rest =>
    cases answer with
    | failed => exact ⟨_, buildFrame_of_failed hcons⟩
    | granted => exact ⟨_, buildFrame_of_granted hcons⟩

/-- PARSE answers every input, absent or present (R160, R167). -/
theorem exists_execParse_eq_next (frame : Option Bytes) (s : State) :
    ∃ t, execParse frame s = .next t := by
  obtain ⟨-, hs⟩ | ⟨_, _, -, -, hs⟩ | ⟨_, _, -, -, hs⟩ := execParse_cases frame s <;> exact ⟨_, hs⟩

/-- No command but the two builds waits for the allocator, so no other is held up (R239). -/
theorem exists_exec_eq_next (i : Instr) (s : State)
    (hbuild : ∀ dcall did scall sid info, i ≠ .build dcall did scall sid info)
    (hbuildcfg : ∀ info, i ≠ .buildcfg info) : ∃ t, exec i s = .next t := by
  cases i with
  | build dcall did scall sid info => exact absurd rfl (hbuild dcall did scall sid info)
  | buildcfg info => exact absurd rfl (hbuildcfg info)
  | parse frame => exact exists_execParse_eq_next frame s
  | crc16 | addrenc | addrdec | setsrc | setdst | setopt => exact ⟨_, rfl⟩

end Sys2Proof.Machine
end

section
/-! The statements of spec/70_reset_and_hazards.md, settled. -/

namespace Sys2Proof.Machine

/-- Settles O32: a build is what the allocator's answer makes of it, and nothing holds up the other
commands. -/
theorem onlySilentAllocatorStopsCommand : Obligations.OnlySilentAllocatorStopsCommand := by
  refine ⟨fun dcall did scall sid info s ha => ?_, fun i s ha => ?_, exists_exec_eq_next⟩
  · exact ⟨buildFrame_eq_fault_iff.mpr ⟨ha, rfl⟩, buildFrame_eq_fault_iff.mpr ⟨ha, rfl⟩⟩
  · cases i with
    | build | buildcfg => exact exists_buildFrame_eq_next ha ..
    | crc16 | addrenc | addrdec | parse | setsrc | setdst | setopt =>
      exact exists_exec_eq_next _ s (fun _ _ _ _ _ => Instr.noConfusion) (fun _ => Instr.noConfusion)

/-- Settles O46: the reset is taken whatever the fault mark, and the port goes on to the next input. -/
theorem resetRestoresRegisters : Obligations.ResetRestoresRegisters := by
  intro s later hp
  refine ⟨_, runPort_of_reset hp, rfl, rfl, rfl, rfl, ?_, rfl⟩
  rw [State.popPort_port, State.takeReset_port, hp, List.tail_cons]

end Sys2Proof.Machine
end
